-- ==== Sys2Proof/Word.lean ====
section
/-! DEFINITION. The word types of the engine: bytes, and the 32-bit positions and addresses (`ADDR_W`, 00_scope R6). -/

namespace Sys2Proof

/-- One byte of either memory (20_memory R40). -/
abbrev Byte := BitVec 8

/-- A position or an address: `ADDR_W` = 32 bits (00_scope R6, 92 D3). -/
abbrev Addr := BitVec 32

end Sys2Proof
end

