-- ==== Sys2Proof/Machine/Bits.lean ====
section
/-! DEFINITION. Bit strings in stream order: fields least significant bit first (20_memory R43), Huffman
codes most significant bit first (R44), stream bit `k` in bit `k mod 8` of byte `k div 8` (R42). -/

namespace Sys2Proof

/-- The unsigned number whose bit `i` is the `i`-th bit of the list (R43). -/
def natOfBits : List Bool → Nat
  | [] => 0
  | b :: bs => b.toNat + 2 * natOfBits bs

/-- The low `n` bits of `v` in the order `READ(n)` takes them, least significant first (R43). -/
def fieldBits : Nat → Nat → List Bool
  | 0, _ => []
  | n + 1, v => (v % 2 == 1) :: fieldBits n (v / 2)

/-- The `n` bits of the code `v` in stream order, most significant first (R44). -/
def codeWordBits (n v : Nat) : List Bool :=
  (fieldBits n v).reverse

/-- The stream bits of a byte string (R42). -/
def bitsOfBytes (bs : List Byte) : List Bool :=
  bs.flatMap fun b => fieldBits 8 b.toNat

/-- The first `k` bytes that a bit string packs into, zeros after its end (30_encoding R80). -/
def packBytes : Nat → List Bool → List Byte
  | 0, _ => []
  | k + 1, bits => BitVec.ofNat 8 (natOfBits (bits.take 8)) :: packBytes k (bits.drop 8)

end Sys2Proof
end

