-- ==== Sys2Proof/Config.lean ====
section
/-! DEFINITION. The engine's fixed parameters (00_scope R6) and the free values: constants without a
body, so that no proof knows what they are. -/

namespace Sys2Proof.Config

/-- `MAX_BITS` (R6): the longest Huffman code length. -/
def maxBits : Nat := 15

/-- `N_LITLEN` (R6): the literal/length alphabet's size. -/
def nLitlen : Nat := 288

/-- `N_DIST` (R6): the distance alphabet's size. -/
def nDist : Nat := 32

/-- `N_CL` (R6): the code-length alphabet's size. -/
def nCl : Nat := 19

/-- `ADLER_MOD` (R6): the Adler-32 modulus. -/
def adlerMod : Nat := 65521

/-- A free value: the `k`-th number of draw `n`. It stands for every register that the spec leaves
unspecified after a fault (10_state R28) or after START (R27). DESIGN CHOICE of the form, log 1, log 2;
safe: nothing constrains the value. -/
opaque freeWord : Nat → Nat → Nat

/-- A free list of numbers for draw `n` and place `k`: the contents of an unspecified table. Safe, log 1. -/
opaque freeList : Nat → Nat → List Nat

/-- The free contents of `OUT_MEM` after a fault, for draw `n` (10_state R28). Safe, log 1. -/
opaque freeCells : Nat → List (Nat × BitVec 8)

end Sys2Proof.Config
end

