-- ==== Sys2Proof/Syntax.lean ====
section
/-! DEFINITION. Abstract syntax: the phases, the shape of a Huffman table, the context an element is
decoded in, and `Instr`, one constructor per row of spec/opcode_table.json. -/

namespace Sys2Proof

/-- `PHASE` (10_state R15), in the order of its encodings 0 to 14. -/
inductive Phase where
  | idle
  | zhdr
  | blockHdr
  | storedHdr
  | storedCopy
  | fixedSetup
  | dynHdr
  | dynClen
  | dynLengths
  | dynBuild
  | symbol
  | endCheck
  | trailer
  | done
  | fault
  deriving DecidableEq, Repr, Inhabited

/-- A Huffman table register (10_state R22): `COUNTS[0..15]` of 9 bits, the `SYMBOLS` that hold a
value (entries at and above `NSYM` hold none, so they are not listed, log 16), and `NSYM`. -/
structure HuffTable (w : Nat) where
  counts  : Vector (BitVec 9) 16
  symbols : List (BitVec w)
  nsym    : BitVec 9
  deriving DecidableEq, Repr

/-- What decides how bits decode (30_encoding R79): `PHASE`, the block's type, whether the second
half of a match is due (R163), and the three tables. -/
structure DecodeCtx where
  phase        : Phase
  btype        : BitVec 2
  matchPending : Bool
  tCl          : HuffTable 5
  tLl          : HuffTable 9
  tD           : HuffTable 5
  deriving DecidableEq, Repr

/-- The stream elements. Operands are the fields of the row in spec/opcode_table.json; extra bits are
no operands, the meaning READs them (R163, R146: some checks come before the extra bits are read). -/
inductive Instr where
  -- format Z (R61)
  | zhdr (cm cinfo : BitVec 4) (fcheck : BitVec 5) (fdict : BitVec 1) (flevel : BitVec 2)
  -- format B (R62)
  | blockStored (bfinal : BitVec 1)
  | blockFixed (bfinal : BitVec 1)
  | blockDynamic (bfinal : BitVec 1)
  | blockReserved (bfinal : BitVec 1)
  -- formats S and RAW8 (R63)
  | storedHdr (len nlen : BitVec 16)
  | storedByte (b : BitVec 8)
  -- formats D and C (R64, R65)
  | dynHdr (hlit hdist : BitVec 5) (hclen : BitVec 4)
  | clen (v : BitVec 3)
  -- format T (R77): the four bytes in stream order
  | adler32 (bHi bLo aHi aLo : BitVec 8)
  -- symbols of the code-length alphabet (R66)
  | clLen (v : BitVec 4)
  | cl16
  | cl17
  | cl18
  -- symbols of the literal/length alphabet (R66, R75, R78)
  | lit (b : BitVec 8)
  | eob
  | len257
  | len258
  | len259
  | len260
  | len261
  | len262
  | len263
  | len264
  | len265
  | len266
  | len267
  | len268
  | len269
  | len270
  | len271
  | len272
  | len273
  | len274
  | len275
  | len276
  | len277
  | len278
  | len279
  | len280
  | len281
  | len282
  | len283
  | len284
  | len285
  | litlen286Reserved
  | litlen287Reserved
  -- symbols of the distance alphabet (R66, R76, R78)
  | dist0
  | dist1
  | dist2
  | dist3
  | dist4
  | dist5
  | dist6
  | dist7
  | dist8
  | dist9
  | dist10
  | dist11
  | dist12
  | dist13
  | dist14
  | dist15
  | dist16
  | dist17
  | dist18
  | dist19
  | dist20
  | dist21
  | dist22
  | dist23
  | dist24
  | dist25
  | dist26
  | dist27
  | dist28
  | dist29
  | dist30Reserved
  | dist31Reserved
  -- the forms symbols take in a fixed-Huffman block (R71, R72); `x` holds the symbol-index bits
  | fixedLl256To271 (x : BitVec 4)
  | fixedLl272To279 (x : BitVec 3)
  | fixedLl0To15 (x : BitVec 4)
  | fixedLl16To79 (x : BitVec 6)
  | fixedLl80To143 (x : BitVec 6)
  | fixedLl280To287 (x : BitVec 3)
  | fixedLl144To159 (x : BitVec 4)
  | fixedLl160To191 (x : BitVec 5)
  | fixedLl192To255 (x : BitVec 6)
  | fixedD0To31 (x : BitVec 5)
  deriving DecidableEq, Repr

end Sys2Proof
end

