-- ==== Sys2Proof/Machine/Huffman.lean ====
section
/-! DEFINITION. The canonical Huffman table builder (41_huffman_builder) and the code word that a table
gives a symbol (R103). Numbers are naturals: no register here can wrap (42 R113). -/

namespace Sys2Proof

/-- `T.COUNTS[l]`: the number of symbols whose code length is `l` (10_state R22). -/
def lengthCount {w : Nat} (T : HuffTable w) (l : Nat) : Nat :=
  (T.counts.getD l 0#9).toNat

/-- The symbols of code length `l`, in increasing order (R101: "increasing symbol order"). -/
def symbolsOfLength (L : List Nat) (l : Nat) : List Nat :=
  (L.zipIdx.filter fun p => p.1 == l).map Prod.snd

/-- The used symbols sorted by (code length, symbol number): what R101 leaves in `SYMBOLS`. -/
def sortedSymbols (L : List Nat) : List Nat :=
  (List.range' 1 15).flatMap (symbolsOfLength L)

/-- The table `BUILD` leaves for the code lengths `L` of the symbols `0 .. L.length - 1` (R101);
`COUNTS[0]` is 0, `NSYM` is the sum of the counts. -/
def tableOf (w : Nat) (L : List Nat) : HuffTable w where
  counts :=
    #v[0#9, BitVec.ofNat 9 (L.count 1), BitVec.ofNat 9 (L.count 2), BitVec.ofNat 9 (L.count 3),
      BitVec.ofNat 9 (L.count 4), BitVec.ofNat 9 (L.count 5), BitVec.ofNat 9 (L.count 6),
      BitVec.ofNat 9 (L.count 7), BitVec.ofNat 9 (L.count 8), BitVec.ofNat 9 (L.count 9),
      BitVec.ofNat 9 (L.count 10), BitVec.ofNat 9 (L.count 11), BitVec.ofNat 9 (L.count 12),
      BitVec.ofNat 9 (L.count 13), BitVec.ofNat 9 (L.count 14), BitVec.ofNat 9 (L.count 15)]
  symbols := (sortedSymbols L).map (BitVec.ofNat w)
  nsym := BitVec.ofNat 9 (((List.range' 1 15).map fun l => L.count l).sum)

/-- `CHECK_SUBSCRIPTION` (R104) from length `l` on, with `left` code words still free: false where the
lengths over-subscribe the code. The first argument counts the lengths still to check. -/
def notOverSubscribed {w : Nat} (T : HuffTable w) : Nat → Nat → Nat → Bool
  | 0, _, _ => true
  | k + 1, l, left =>
    if lengthCount T l > 2 * left then false
    else notOverSubscribed T k (l + 1) (2 * left - lengthCount T l)

/-- `BUILD(T, L, n)` (R101) with `n = L.length`: `none` where it raises `ERR_CODE_LENGTHS` (R102 for a
length above 15, R104 for an over-subscribed set when `STRICT_CODES` is on). -/
def buildTable (w : Nat) (strict : Bool) (L : List Nat) : Option (HuffTable w) :=
  if L.any fun len => 15 < len then none
  else if strict && !notOverSubscribed (tableOf w L) 15 1 1 then none
  else some (tableOf w L)

/-- The table with no symbol (R105). -/
def emptyTable (w : Nat) : HuffTable w :=
  { counts := Vector.replicate 16 0#9, symbols := [], nsym := 0#9 }

/-- `FIXED_LL` (44 R135): 0..143 of 8 bits, 144..255 of 9, 256..279 of 7, 280..287 of 8. -/
def fixedLitlenLengths : List Nat :=
  List.replicate 144 8 ++ List.replicate 112 9 ++ List.replicate 24 7 ++ List.replicate 8 8

/-- `FIXED_D` (44 R135): 32 symbols of 5 bits. -/
def fixedDistLengths : List Nat :=
  List.replicate 32 5

/-- The length and the code of the symbol at position `p` of `SYMBOLS` (R103): the search runs over the
lengths from `l` on, with the first code and the first position of that length. -/
def codeAtPosition {w : Nat} (T : HuffTable w) (p : Nat) : Nat → Nat → Nat → Nat → Option (Nat × Nat)
  | 0, _, _, _ => none
  | k + 1, l, first, idx =>
    if p < idx + lengthCount T l then some (l, first + (p - idx))
    else codeAtPosition T p k (l + 1) (2 * (first + lengthCount T l)) (idx + lengthCount T l)

/-- The length and the canonical code of a symbol (R103); `none` for a symbol not in the table. -/
def codeOf {w : Nat} (T : HuffTable w) (sym : BitVec w) : Option (Nat × Nat) :=
  (T.symbols.findIdx? (· == sym)).bind fun p => codeAtPosition T p 15 1 0 0

end Sys2Proof
end

