-- ==== Sys2Proof/Machine/Opcode.lean ====
section
/-! DEFINITION. spec/opcode_table.json as two views of one table: from an instruction to the form of its
row (30_encoding R60 to R66, R71, R72, R77), and from a decoded symbol to its instruction. -/

namespace Sys2Proof

/-- The form of an instruction's encoding. -/
inductive Shape where
  /-- A fixed-width element of the phase: its fields as (width, value), the lowest stream bit first. -/
  | word (phase : Phase) (fields : List (Nat × Nat))
  /-- A symbol of the code-length alphabet. -/
  | clSym (s : BitVec 5)
  /-- A symbol of the literal/length alphabet, outside a fixed block. -/
  | llSym (s : BitVec 9)
  /-- A symbol of the distance alphabet, outside a fixed block. -/
  | dSym (s : BitVec 5)
  /-- A literal/length code word of a fixed block: its length and its value (R71), and the symbol. -/
  | fixedLl (len code : Nat) (s : BitVec 9)
  /-- A distance code word of a fixed block: the 5-bit symbol itself (R72). -/
  | fixedD (s : BitVec 5)
  deriving DecidableEq, Repr

/-- The form of each row. -/
def shape : Instr → Shape
  | .zhdr cm cinfo fcheck fdict flevel =>
    .word .zhdr [(4, cm.toNat), (4, cinfo.toNat), (5, fcheck.toNat), (1, fdict.toNat), (2, flevel.toNat)]
  | .blockStored bfinal => .word .blockHdr [(1, bfinal.toNat), (2, 0)]
  | .blockFixed bfinal => .word .blockHdr [(1, bfinal.toNat), (2, 1)]
  | .blockDynamic bfinal => .word .blockHdr [(1, bfinal.toNat), (2, 2)]
  | .blockReserved bfinal => .word .blockHdr [(1, bfinal.toNat), (2, 3)]
  | .storedHdr len nlen => .word .storedHdr [(16, len.toNat), (16, nlen.toNat)]
  | .storedByte b => .word .storedCopy [(8, b.toNat)]
  | .dynHdr hlit hdist hclen => .word .dynHdr [(5, hlit.toNat), (5, hdist.toNat), (4, hclen.toNat)]
  | .clen v => .word .dynClen [(3, v.toNat)]
  | .adler32 bHi bLo aHi aLo =>
    .word .trailer [(8, bHi.toNat), (8, bLo.toNat), (8, aHi.toNat), (8, aLo.toNat)]
  | .clLen v => .clSym (v.setWidth 5)
  | .cl16 => .clSym 16
  | .cl17 => .clSym 17
  | .cl18 => .clSym 18
  | .lit b => .llSym (b.setWidth 9)
  | .eob => .llSym 256
  | .len257 => .llSym 257
  | .len258 => .llSym 258
  | .len259 => .llSym 259
  | .len260 => .llSym 260
  | .len261 => .llSym 261
  | .len262 => .llSym 262
  | .len263 => .llSym 263
  | .len264 => .llSym 264
  | .len265 => .llSym 265
  | .len266 => .llSym 266
  | .len267 => .llSym 267
  | .len268 => .llSym 268
  | .len269 => .llSym 269
  | .len270 => .llSym 270
  | .len271 => .llSym 271
  | .len272 => .llSym 272
  | .len273 => .llSym 273
  | .len274 => .llSym 274
  | .len275 => .llSym 275
  | .len276 => .llSym 276
  | .len277 => .llSym 277
  | .len278 => .llSym 278
  | .len279 => .llSym 279
  | .len280 => .llSym 280
  | .len281 => .llSym 281
  | .len282 => .llSym 282
  | .len283 => .llSym 283
  | .len284 => .llSym 284
  | .len285 => .llSym 285
  | .litlen286Reserved => .llSym 286
  | .litlen287Reserved => .llSym 287
  | .dist0 => .dSym 0
  | .dist1 => .dSym 1
  | .dist2 => .dSym 2
  | .dist3 => .dSym 3
  | .dist4 => .dSym 4
  | .dist5 => .dSym 5
  | .dist6 => .dSym 6
  | .dist7 => .dSym 7
  | .dist8 => .dSym 8
  | .dist9 => .dSym 9
  | .dist10 => .dSym 10
  | .dist11 => .dSym 11
  | .dist12 => .dSym 12
  | .dist13 => .dSym 13
  | .dist14 => .dSym 14
  | .dist15 => .dSym 15
  | .dist16 => .dSym 16
  | .dist17 => .dSym 17
  | .dist18 => .dSym 18
  | .dist19 => .dSym 19
  | .dist20 => .dSym 20
  | .dist21 => .dSym 21
  | .dist22 => .dSym 22
  | .dist23 => .dSym 23
  | .dist24 => .dSym 24
  | .dist25 => .dSym 25
  | .dist26 => .dSym 26
  | .dist27 => .dSym 27
  | .dist28 => .dSym 28
  | .dist29 => .dSym 29
  | .dist30Reserved => .dSym 30
  | .dist31Reserved => .dSym 31
  | .fixedLl256To271 x => .fixedLl 7 x.toNat (BitVec.ofNat 9 (256 + x.toNat))
  | .fixedLl272To279 x => .fixedLl 7 (16 + x.toNat) (BitVec.ofNat 9 (272 + x.toNat))
  | .fixedLl0To15 x => .fixedLl 8 (48 + x.toNat) (BitVec.ofNat 9 x.toNat)
  | .fixedLl16To79 x => .fixedLl 8 (64 + x.toNat) (BitVec.ofNat 9 (16 + x.toNat))
  | .fixedLl80To143 x => .fixedLl 8 (128 + x.toNat) (BitVec.ofNat 9 (80 + x.toNat))
  | .fixedLl280To287 x => .fixedLl 8 (192 + x.toNat) (BitVec.ofNat 9 (280 + x.toNat))
  | .fixedLl144To159 x => .fixedLl 9 (400 + x.toNat) (BitVec.ofNat 9 (144 + x.toNat))
  | .fixedLl160To191 x => .fixedLl 9 (416 + x.toNat) (BitVec.ofNat 9 (160 + x.toNat))
  | .fixedLl192To255 x => .fixedLl 9 (448 + x.toNat) (BitVec.ofNat 9 (192 + x.toNat))
  | .fixedD0To31 x => .fixedD x

/-- The element of a code-length symbol (R66): 0..15 are lengths, 16, 17, 18 repeats. -/
def clInstr (sym : BitVec 5) : Option Instr :=
  if sym.toNat < 16 then some (.clLen (sym.setWidth 4))
  else [Instr.cl16, .cl17, .cl18][sym.toNat - 16]?

/-- The elements of the literal/length symbols 256 to 287, in order (R66, R78). -/
def llInstrs : List Instr :=
  [.eob, .len257, .len258, .len259, .len260, .len261, .len262, .len263, .len264, .len265, .len266,
    .len267, .len268, .len269, .len270, .len271, .len272, .len273, .len274, .len275, .len276,
    .len277, .len278, .len279, .len280, .len281, .len282, .len283, .len284, .len285, .litlen286Reserved, .litlen287Reserved]

/-- The element of a literal/length symbol; the alphabet ends at 287 (R169). -/
def llInstr (sym : BitVec 9) : Option Instr :=
  if sym.toNat < 256 then some (.lit (sym.setWidth 8))
  else llInstrs[sym.toNat - 256]?

/-- The elements of the distance symbols 0 to 31, in order (R66, R78). -/
def dInstrs : List Instr :=
  [.dist0, .dist1, .dist2, .dist3, .dist4, .dist5, .dist6, .dist7, .dist8, .dist9, .dist10,
    .dist11, .dist12, .dist13, .dist14, .dist15, .dist16, .dist17, .dist18, .dist19, .dist20,
    .dist21, .dist22, .dist23, .dist24, .dist25, .dist26, .dist27, .dist28, .dist29, .dist30Reserved, .dist31Reserved]

/-- The element of a distance symbol. -/
def dInstr (sym : BitVec 5) : Option Instr :=
  dInstrs[sym.toNat]?

/-- The form a literal/length symbol takes in a fixed block (R71). -/
def fixedLlInstr (sym : BitVec 9) : Option Instr :=
  let n := sym.toNat
  if n < 16 then some (.fixedLl0To15 (BitVec.ofNat 4 n))
  else if n < 80 then some (.fixedLl16To79 (BitVec.ofNat 6 (n - 16)))
  else if n < 144 then some (.fixedLl80To143 (BitVec.ofNat 6 (n - 80)))
  else if n < 160 then some (.fixedLl144To159 (BitVec.ofNat 4 (n - 144)))
  else if n < 192 then some (.fixedLl160To191 (BitVec.ofNat 5 (n - 160)))
  else if n < 256 then some (.fixedLl192To255 (BitVec.ofNat 6 (n - 192)))
  else if n < 272 then some (.fixedLl256To271 (BitVec.ofNat 4 (n - 256)))
  else if n < 280 then some (.fixedLl272To279 (BitVec.ofNat 3 (n - 272)))
  else if n < 288 then some (.fixedLl280To287 (BitVec.ofNat 3 (n - 280)))
  else none

end Sys2Proof
end

