-- ==== Sys2Proof/WellFormed.lean ====
section
/-! DEFINITION. When an instruction can stand at the current place of a stream (30_encoding R60, R79):
operand ranges hold by their types; checked are the phase, the block's type and the symbol's code word. -/

namespace Sys2Proof

/-- The context admits the element: its phase is the current one, and in `PH_SYMBOL` the half of a match
that is due and the block's type select the alphabet (R60, R66, R163; log 7 for the fixed forms). -/
def admits (c : DecodeCtx) (i : Instr) : Bool :=
  match shape i with
  | .word p _ => c.phase == p
  | .clSym _ => c.phase == .dynLengths
  | .llSym _ => c.phase == .symbol && !c.matchPending && c.btype != 1#2
  | .dSym _ => c.phase == .symbol && c.matchPending && c.btype != 1#2
  | .fixedLl _ _ _ => c.phase == .symbol && !c.matchPending && c.btype == 1#2
  | .fixedD _ => c.phase == .symbol && c.matchPending && c.btype == 1#2

/-- The table gives the symbol a code word: it is used, and its code fits its length (41 R103, R104). -/
def hasCodeWord {w : Nat} (T : HuffTable w) (sym : BitVec w) : Bool :=
  match codeOf T sym with
  | some (l, code) => decide (code < 2 ^ l)
  | none => false

/-- The symbol has a code word in the table the context selects; a fixed form needs the fixed tables. -/
def spellable (c : DecodeCtx) (i : Instr) : Bool :=
  match shape i with
  | .word _ _ => true
  | .clSym s => hasCodeWord c.tCl s
  | .llSym s => hasCodeWord c.tLl s
  | .dSym s => hasCodeWord c.tD s
  | .fixedLl _ _ _ => c.tLl == tableOf 9 fixedLitlenLengths
  | .fixedD _ => c.tD == tableOf 5 fixedDistLengths

/-- The instruction is well formed in the context. -/
def wellFormed (c : DecodeCtx) (i : Instr) : Bool :=
  admits c i && spellable c i

end Sys2Proof
end

