-- ==== Sys2Proof/Decode.lean ====
section
/-! DEFINITION. The decoder and, after it, the encoder (30_encoding). One program of READs and ALIGNs says
how each phase's element is taken from the stream; it runs over a bit string here (`decode`) and over
the bit reader's registers in Machine/Fetch.lean. -/

namespace Sys2Proof

/-- Why the decoder refuses. -/
inductive Reject where
  /-- A READ needs a bit that the input does not have (40 R91). -/
  | inputExhausted
  /-- DECODE read 15 bits without a match (42 R111). -/
  | huffmanOverrun
  /-- DECODE computed a position of `SYMBOLS` that holds no value; no table that BUILD leaves does this (42 R113). -/
  | symbolEntryAbsent
  /-- DECODE returned a number that is no symbol of the alphabet; no table that BUILD leaves does this (45 R169). -/
  | symbolOutsideAlphabet
  /-- The phase executes no stream element (10_state R15). -/
  | noElement
  deriving DecidableEq, Repr

/-- A program of the bit reader's two operations (40_bitreader): READ(n) hands its value on. -/
inductive BitProg (α : Type) where
  | done (a : α)
  | reject (e : Reject)
  | read (n : Nat) (k : Nat → BitProg α)
  | align (k : BitProg α)

/-- One program after another. -/
def BitProg.bind {α β : Type} : BitProg α → (α → BitProg β) → BitProg β
  | .done a, f => f a
  | .reject e, _ => .reject e
  | .read n k, f => .read n fun v => (k v).bind f
  | .align k, f => .align (k.bind f)

/-- `DECODE(T)` (42 R111) from code length `l` on; the first argument counts the lengths left to try.
The listing's `((code << 1) | bit) & 0x7FFF` is `(2 * code + bit) mod 2^15`. -/
def decodeSymbol {w : Nat} (T : HuffTable w) : Nat → Nat → Nat → Nat → Nat → BitProg (BitVec w)
  | 0, _, _, _, _ => .reject .huffmanOverrun
  | k + 1, l, code, first, idx =>
    .read 1 fun bit =>
      if (2 * code + bit) % 0x8000 < first + lengthCount T l then
        match T.symbols[idx + ((2 * code + bit) % 0x8000 - first)]? with
        | some sym => .done sym
        | none => .reject .symbolEntryAbsent
      else
        decodeSymbol T k (l + 1) ((2 * code + bit) % 0x8000) (2 * (first + lengthCount T l))
          (idx + lengthCount T l)

/-- `DECODE(T)` from the start (42 R111). -/
def decodeProg {w : Nat} (T : HuffTable w) : BitProg (BitVec w) :=
  decodeSymbol T 15 1 0 0 0

/-- The instruction of a decoded symbol, or the rejection of a number outside the alphabet. -/
def instrOr (i : Option Instr) : BitProg Instr :=
  match i with
  | some i => .done i
  | none => .reject .symbolOutsideAlphabet

/-- `ZHDR` (R61, 46 R241): CMF, then FLG. -/
def zhdrProg : BitProg Instr :=
  .read 8 fun cmf => .read 8 fun flg =>
    .done (.zhdr (BitVec.ofNat 4 cmf) (BitVec.ofNat 4 (cmf / 16)) (BitVec.ofNat 5 flg)
      (BitVec.ofNat 1 (flg / 32)) (BitVec.ofNat 2 (flg / 64)))

/-- `BLOCK` (R62, 43 R120): `BFINAL`, then `BTYPE`. -/
def blockProg : BitProg Instr :=
  .read 1 fun bfinal => .read 2 fun btype =>
    .done (
      if btype = 0 then .blockStored (BitVec.ofNat 1 bfinal)
      else if btype = 1 then .blockFixed (BitVec.ofNat 1 bfinal)
      else if btype = 2 then .blockDynamic (BitVec.ofNat 1 bfinal)
      else .blockReserved (BitVec.ofNat 1 bfinal))

/-- `STORED_HDR` (R63, 43 R124): ALIGN, `LEN`, `NLEN`. -/
def storedHdrProg : BitProg Instr :=
  .align (.read 16 fun len => .read 16 fun nlen =>
    .done (.storedHdr (BitVec.ofNat 16 len) (BitVec.ofNat 16 nlen)))

/-- `STORED_BYTE` (43 R127). -/
def storedByteProg : BitProg Instr :=
  .read 8 fun b => .done (.storedByte (BitVec.ofNat 8 b))

/-- `DYN_HDR` (R64, 44 R140): `HLIT`, `HDIST`, `HCLEN`. -/
def dynHdrProg : BitProg Instr :=
  .read 5 fun hlit => .read 5 fun hdist => .read 4 fun hclen =>
    .done (.dynHdr (BitVec.ofNat 5 hlit) (BitVec.ofNat 5 hdist) (BitVec.ofNat 4 hclen))

/-- `CLEN` (R65, 44 R142). -/
def clenProg : BitProg Instr :=
  .read 3 fun v => .done (.clen (BitVec.ofNat 3 v))

/-- `ADLER32` (R77, 46 R248): ALIGN, then four bytes. -/
def adler32Prog : BitProg Instr :=
  .align (.read 8 fun b0 => .read 8 fun b1 => .read 8 fun b2 => .read 8 fun b3 =>
    .done (.adler32 (BitVec.ofNat 8 b0) (BitVec.ofNat 8 b1) (BitVec.ofNat 8 b2) (BitVec.ofNat 8 b3)))

/-- The code word of `PH_SYMBOL`: `T_D` when the second half of a match is due, else `T_LL` (R66, 45
R160); in a fixed block (`BTYPE` = 1) the symbol takes its FIXED form (R71, R72, log 7). -/
def symbolProg (c : DecodeCtx) : BitProg Instr :=
  if c.matchPending then
    (decodeProg c.tD).bind fun sym =>
      if c.btype = 1#2 then .done (.fixedD0To31 sym) else instrOr (dInstr sym)
  else
    (decodeProg c.tLl).bind fun sym =>
      if c.btype = 1#2 then instrOr (fixedLlInstr sym) else instrOr (llInstr sym)

/-- What is taken from the stream in each phase (10_state R15, 30_encoding R60). -/
def elementProg (c : DecodeCtx) : BitProg Instr :=
  match c.phase with
  | .zhdr => zhdrProg
  | .blockHdr => blockProg
  | .storedHdr => storedHdrProg
  | .storedCopy => storedByteProg
  | .dynHdr => dynHdrProg
  | .dynClen => clenProg
  | .dynLengths => (decodeProg c.tCl).bind fun sym => instrOr (clInstr sym)
  | .symbol => symbolProg c
  | .trailer => adler32Prog
  | .idle => .reject .noElement
  | .fixedSetup => .reject .noElement
  | .dynBuild => .reject .noElement
  | .endCheck => .reject .noElement
  | .done => .reject .noElement
  | .fault => .reject .noElement

/-- Runs a program over the stream bits from position `pos` on; the answer is the value and the position
after it. READ takes the next `n` bits (40 R91); ALIGN goes to the next multiple of 8 (R93). -/
def BitProg.runBits {α : Type} : BitProg α → Nat → List Bool → Except Reject (α × Nat)
  | .done a, pos, _ => .ok (a, pos)
  | .reject e, _, _ => .error e
  | .read n k, pos, bits =>
    if n ≤ bits.length then (k (natOfBits (bits.take n))).runBits (pos + n) (bits.drop n)
    else .error .inputExhausted
  | .align k, pos, bits => k.runBits (pos + (8 - pos % 8) % 8) (bits.drop ((8 - pos % 8) % 8))

/-- The element at the start of a byte string, with the number of stream bits it takes; total on any
bytes, a refusal has its name. -/
def decode (c : DecodeCtx) (bytes : List Byte) : Except Reject (Instr × Nat) :=
  (elementProg c).runBits 0 (bitsOfBytes bytes)

/-! ### The encoder -/

/-- The stream bits of a symbol's code word under a table (R66, 41 R103); nothing for a symbol that has none. -/
def symbolBits {w : Nat} (T : HuffTable w) (sym : BitVec w) : List Bool :=
  match codeOf T sym with
  | some (l, code) => codeWordBits l code
  | none => []

/-- The stream bits of an instruction in a context (30_encoding R61 to R66, R71, R72, R77); pad bits of
aligned elements are not part of it. -/
def encodeBits (c : DecodeCtx) (i : Instr) : List Bool :=
  match shape i with
  | .word _ fields => fields.flatMap fun f => fieldBits f.1 f.2
  | .clSym s => symbolBits c.tCl s
  | .llSym s => symbolBits c.tLl s
  | .dSym s => symbolBits c.tD s
  | .fixedLl len code _ => codeWordBits len code
  | .fixedD s => codeWordBits 5 s.toNat

/-- The bytes of an instruction that starts on a byte boundary, the last byte padded with zeros (R80). -/
def encode (c : DecodeCtx) (i : Instr) : List Byte :=
  packBytes (((encodeBits c i).length + 7) / 8) (encodeBits c i)

/-! ### Words of spec/opcode_table.json

The table numbers a symbol row's bits by the decoded symbol and a fixed-code row's by the code value
(R81), and gives no phase with a word. `tableSlot` fixes the phase and the tables a word is read in
and lays its stream bits out. DESIGN CHOICE, log 8. -/

/-- A complete enough code-length table: all 19 symbols at 5 bits. -/
def flatClTable : HuffTable 5 := tableOf 5 (List.replicate 19 5)

/-- The context whose element a word of `nbits` bits is read as, and the word's stream bits. -/
def tableSlot (c : DecodeCtx) (nbits w : Nat) : Option (DecodeCtx × List Bool) :=
  let word (p : Phase) (n : Nat) : Option (DecodeCtx × List Bool) :=
    some ({ c with phase := p }, fieldBits n w)
  let sym (btype : BitVec 2) (pending : Bool) (bits : List Bool) : Option (DecodeCtx × List Bool) :=
    some ({ c with
      phase := .symbol, btype := btype, matchPending := pending,
      tLl := tableOf 9 fixedLitlenLengths, tD := tableOf 5 fixedDistLengths }, bits)
  if nbits = 8 then
    if w < 8 ∧ w % 2 = 0 then word .blockHdr 3
    else if 16 ≤ w ∧ w ≤ 18 then
      some ({ c with phase := .dynLengths, tCl := flatClTable }, symbolBits flatClTable (BitVec.ofNat 5 w))
    else if w < 32 then
      sym 2#2 true (symbolBits (tableOf 5 fixedDistLengths) (BitVec.ofNat 5 w))
    else if 48 ≤ w ∧ w < 200 then sym 1#2 false (codeWordBits 8 w)
    else word .storedCopy 8
  else if nbits = 16 then
    if w < 288 then sym 2#2 false (symbolBits (tableOf 9 fixedLitlenLengths) (BitVec.ofNat 9 w))
    else if 400 ≤ w ∧ w < 512 then sym 1#2 false (codeWordBits 9 w)
    else if w % 16 ≠ 8 ∧ w < 0x4000 then word .dynHdr 14
    else word .zhdr 16
  else if nbits = 32 then
    if w / 0x10000 = 0xFFFF - w % 0x10000 then word .storedHdr 32 else word .trailer 32
  else none

/-- The bytes that hold a table word's stream bits, zeros after them: twelve bytes, more than the
longest element (a match of at most 48 bits, R60). -/
def slotBytes (bits : List Bool) : List Byte :=
  packBytes 12 bits

/-- The context before a table word selects its own: nothing decoded yet. -/
def idleCtx : DecodeCtx :=
  { phase := .idle, btype := 0#2, matchPending := false, tCl := emptyTable 5, tLl := emptyTable 9,
    tD := emptyTable 5 }

/-- The instruction the decoder reads from a word of spec/opcode_table.json. -/
def decodeTableWord (nbits w : Nat) : Option Instr :=
  match tableSlot idleCtx nbits w with
  | some (c, bits) =>
    match decode c (slotBytes bits) with
    | .ok (i, _) => some i
    | .error _ => none
  | none => none

end Sys2Proof
end

