-- ==== Sys2Proof/Machine/State.lean ====
section
/-! DEFINITION. The state of the engine as plain data, in the groups of 10_state R10, with its reset
values (R27); the reasons a step can stop. -/

namespace Sys2Proof.Machine

open Sys2Proof

/-- `STATUS` (10_state R16), in the order of its encodings 0 to 3. -/
inductive Status where
  | idle
  | busy
  | done
  | fault
  deriving DecidableEq, Repr, Inhabited

/-- `ERR[3:0]` (60 R271): the fault codes 0 to 15, in order. -/
inductive ErrCode where
  | none
  | inputExhausted
  | zlibMethod
  | zlibFcheck
  | zlibFdict
  | btypeReserved
  | storedNlen
  | codeLengths
  | repeatNoPrev
  | repeatOverflow
  | huffmanOverrun
  | litlenSymbol
  | distSymbol
  | distTooFar
  | sizeMismatch
  | adlerMismatch
  deriving DecidableEq, Repr, Inhabited

/-- The launch parameters and the registers that hold them (R11, R17). The engine never writes them. -/
structure Launch where
  /-- `IN_MEM`: the bytes the host has placed, addresses strictly rising (R11, R25; log 4). -/
  inMem       : List Host.Cell
  /-- `IN_LEN` (R17). -/
  inLen       : BitVec 32
  /-- `EXPECTED_LEN` (R17). -/
  expectedLen : BitVec 32
  /-- `CFG` (R17): bit 0 `STRICT_NLEN`, bit 1 `STRICT_CODES`. -/
  cfg         : BitVec 2
  deriving DecidableEq, Repr

/-- The bit reader's registers (R12). -/
structure BitReader where
  /-- `BYTE_POS`: the offset of the next byte not yet pulled. -/
  bytePos  : BitVec 32
  /-- `BIT_BUF`: bits pulled and not yet consumed, the next one in bit 0. -/
  bitBuf   : BitVec 64
  /-- `BIT_COUNT`: how many low bits of `BIT_BUF` are valid. -/
  bitCount : BitVec 6
  deriving DecidableEq, Repr

/-- `PHASE`, `STATUS`, `ERR` (R15 to R17). -/
structure Control where
  phase  : Phase
  status : Status
  err    : ErrCode
  deriving DecidableEq, Repr

/-- The block's registers (R13, R16, R20). -/
structure Block where
  /-- `BFINAL`, a flag (R16). -/
  bfinal  : BitVec 1
  btype   : BitVec 2
  len     : BitVec 16
  nlen    : BitVec 16
  /-- `COPY_REM`: stored bytes still to copy. -/
  copyRem : BitVec 16
  deriving DecidableEq, Repr

/-- The dynamic header's registers (R13, R21). -/
structure Dynamic where
  hlit      : BitVec 5
  hdist     : BitVec 5
  hclen     : BitVec 4
  clIdx     : BitVec 5
  /-- `CL_LENGTHS[0..18]`, indexed by code-length symbol. -/
  clLengths : Vector (BitVec 3) 19
  lenIdx    : BitVec 9
  /-- `LENGTHS[0..319]`: the literal/length lengths, then the distance lengths. -/
  lengths   : Vector (BitVec 4) 320
  deriving DecidableEq, Repr

/-- The three Huffman tables (R22). -/
structure Tables where
  tCl : HuffTable 5
  tLl : HuffTable 9
  tD  : HuffTable 5
  deriving DecidableEq, Repr

/-- The output memory and position (R18). -/
structure Output where
  /-- `OUT_MEM`: the bytes written, addresses strictly rising; an unlisted byte has no value (log 5). -/
  outMem : List Host.Cell
  /-- `OUT_POS`: the number of bytes appended in this run. -/
  outPos : BitVec 32
  deriving DecidableEq, Repr

/-- The checksum registers `ADLER_A`, `ADLER_B` (R19). -/
structure Adler where
  a : BitVec 16
  b : BitVec 16
  deriving DecidableEq, Repr

/-- The engine's state. -/
structure State where
  launch  : Launch
  reader  : BitReader
  control : Control
  block   : Block
  dyn     : Dynamic
  tables  : Tables
  out     : Output
  adler   : Adler
  /-- The MODEL's own field (log 6): the length of a match whose distance half is due. -/
  matchLen  : Option (BitVec 9)
  /-- The MODEL's own field (log 10): the number of the next draw of free values. -/
  freeCount : Nat
  deriving DecidableEq, Repr

/-- Why the model stops. Every one is safe: the model stops where the engine, on a state that can occur,
goes on or never comes. The engine's own faults (60 R271) are no stops: they are taken (R288). -/
inductive Fault where
  /-- A READ reached a byte of `IN_MEM` below `IN_LEN` that the host never placed (log 4). Raised by READ. Safe. -/
  | inByteAbsent
  /-- A match copy or the host reads a byte of `OUT_MEM` that nothing has written (log 5). Raised by the
  copy of MATCH and by `hostReadOut`. Safe. -/
  | outByteAbsent
  /-- DECODE computed a position of `SYMBOLS` that holds no value (log 12). Raised by the fetch. Safe. -/
  | symbolEntryAbsent
  /-- DECODE returned a number outside the alphabet (log 12). Raised by the fetch. Safe. -/
  | symbolOutsideAlphabet
  /-- An index outside `CL_ORDER` or `LENGTHS` (log 12). Raised by `CLEN` and `CL_LEN`. Safe. -/
  | arrayIndexOutside
  /-- The host addresses a byte of `OUT_MEM` at or above `EXPECTED_LEN`, which does not exist (R25). Raised
  by `hostReadOut` and `hostWriteOut`. Safe. -/
  | outAddressOutside
  deriving DecidableEq, Repr

/-- What the model gives no meaning. Every one is safe: nothing is claimed about such a run. -/
inductive Refusal where
  /-- An instruction without a meaning yet, by its mnemonic. Raised by `exec`'s arms only. Safe. -/
  | notModelled (mnemonic : String)
  /-- A distance symbol that no length symbol precedes: the grammar has none (30 R60, log 23). Raised by
  `DIST0` to `DIST29`. Safe. -/
  | distanceWithoutLength
  /-- The current phase executes no stream element (10_state R15). Raised by `fetch`, which `step` calls
  in no such phase. Safe. -/
  | noElement
  /-- The host writes `IN_LEN`, `EXPECTED_LEN`, `CFG`, `IN_MEM` or `OUT_MEM` while `BUSY` (93 U9). Raised
  by the host operations. Safe. -/
  | hostWriteWhileBusy
  /-- The host reads `IN_LEN`, `EXPECTED_LEN` or `CFG` while `BUSY`, which R17 gives no access (log 13).
  Raised by `hostRead`. Safe. -/
  | hostReadWhileBusy
  /-- The host writes a read-only register (R17, log 13). Raised by `hostWrite`. Safe. -/
  | hostWriteReadOnly
  deriving DecidableEq, Repr

/-- The machine right after hardware reset: the "after hardware reset" column of 10_state R27 (70 R300).
DESIGN CHOICE 0 for every register it leaves unspecified (log 3); no byte of either memory is listed
(log 4, log 5). -/
def State.reset : State where
  launch := { inMem := [], inLen := 0#32, expectedLen := 0#32, cfg := 0#2 }
  reader := { bytePos := 0#32, bitBuf := 0#64, bitCount := 0#6 }
  control := { phase := .idle, status := .idle, err := .none }
  block := { bfinal := 0#1, btype := 0#2, len := 0#16, nlen := 0#16, copyRem := 0#16 }
  dyn :=
    { hlit := 0#5, hdist := 0#5, hclen := 0#4, clIdx := 0#5, clLengths := Vector.replicate 19 0#3,
      lenIdx := 0#9, lengths := Vector.replicate 320 0#4 }
  tables := { tCl := emptyTable 5, tLl := emptyTable 9, tD := emptyTable 5 }
  out := { outMem := [], outPos := 0#32 }
  adler := { a := 1#16, b := 0#16 }
  matchLen := none
  freeCount := 0

/-! ### Updates by group, and the few single registers that change alone -/

/-- The state with another bit reader. -/
def State.setReader (s : State) (r : BitReader) : State := { s with reader := r }

/-- The state with another `PHASE`. -/
def State.setPhase (s : State) (p : Phase) : State := { s with control := { s.control with phase := p } }

/-- The state with other control registers. -/
def State.setControl (s : State) (c : Control) : State := { s with control := c }

/-- The state with other block registers. -/
def State.setBlock (s : State) (b : Block) : State := { s with block := b }

/-- The state with other dynamic-header registers. -/
def State.setDyn (s : State) (d : Dynamic) : State := { s with dyn := d }

/-- The state with other tables. -/
def State.setTables (s : State) (t : Tables) : State := { s with tables := t }

/-- The state with another output memory, position and checksum: what OUT_APPEND writes (20 R47). -/
def State.setOut (s : State) (o : Output) (a : Adler) : State := { s with out := o, adler := a }

/-- The state with another pending match length. -/
def State.setMatchLen (s : State) (n : Option (BitVec 9)) : State := { s with matchLen := n }

/-- The state with other launch parameters: what the host writes. -/
def State.setLaunch (s : State) (l : Launch) : State := { s with launch := l }

/-- The state after a draw of free values. -/
def State.drawn (s : State) : State := { s with freeCount := s.freeCount + 1 }

/-- `bitpos` (R14): the number of stream bits consumed. -/
def State.bitpos (s : State) : Nat := 8 * s.reader.bytePos.toNat - s.reader.bitCount.toNat

/-- What the next bits mean (30 R79), read off the registers. -/
def State.ctx (s : State) : DecodeCtx where
  phase := s.control.phase
  btype := s.block.btype
  matchPending := s.matchLen.isSome
  tCl := s.tables.tCl
  tLl := s.tables.tLl
  tD := s.tables.tD

end Sys2Proof.Machine
end

