-- ==== Sys2Proof/Machine/Memory.lean ====
section
/-! DEFINITION. The two byte memories (20_memory): a list of (address, byte) pairs, addresses strictly
rising. An unlisted byte has no value: reading it answers `none` (log 4, log 5). -/

namespace Sys2Proof.Machine

open Sys2Proof

/-- The canonical form: addresses strictly rising. An unlisted address reads as no value, so no entry
can equal what an unlisted address reads as. -/
abbrev Memory.wf (m : List Host.Cell) : Prop :=
  (m.map Prod.fst).Pairwise (· < ·)

/-- The byte at an address; `none` where nothing has been written. -/
def memRead : List Host.Cell → Nat → Option Byte
  | [], _ => none
  | c :: m, addr => if c.1 = addr then some c.2 else memRead m addr

/-- Writes one byte, in address order. -/
def memWrite : List Host.Cell → Nat → Byte → List Host.Cell
  | [], addr, b => [(addr, b)]
  | c :: m, addr, b =>
    if addr < c.1 then (addr, b) :: c :: m
    else if addr = c.1 then (addr, b) :: m
    else c :: memWrite m addr b

/-- Writes a byte string from an address on. -/
def memWriteBytes : List Host.Cell → Nat → List Byte → List Host.Cell
  | m, _, [] => m
  | m, addr, b :: bs => memWriteBytes (memWrite m addr b) (addr + 1) bs

/-- The memory that a list of cells describes, below an end address, in canonical form. -/
def memOfCells (bound : Nat) (cells : List Host.Cell) : List Host.Cell :=
  (cells.filter fun c => c.1 < bound).foldl (fun m c => memWrite m c.1 c.2) []

end Sys2Proof.Machine
end

