-- ==== Sys2Proof/Machine/Ops.lean ====
section
/-! DEFINITION. The operations every element is built from: READ and ALIGN (40_bitreader), BUILD as an
operation (41), OUT_APPEND and the copy (20 R47, 45 R164), fault entry (60 R288) and, beside it, START,
the one way out of a fault (46 R240, 60 R289). -/

namespace Sys2Proof.Machine

open Sys2Proof

/-- Why an operation does not go on: a fault the engine takes (R288), or a stop of the model's. -/
inductive Stop where
  | raise (e : ErrCode)
  | stuck (f : Fault)
  | refuse (r : Refusal)
  deriving DecidableEq, Repr

/-- The outcome of an instruction or of a step. -/
abbrev Outcome := Host.Outcome State Fault Refusal

/-- The answer of an operation: a value, or the first stop reached (60 R287: the first `raise` wins). -/
abbrev Res := Except Stop

/-! ### Free values (10_state R28, R27; log 1, log 2, log 10) -/

/-- The free value of a register: place `k` of draw `n`. -/
def freeBits (w n k : Nat) : BitVec w := BitVec.ofNat w (Config.freeWord n k)

/-- The free values of a register array: places `k`, `k + 1`, … of draw `n`. -/
def freeVec (w n k len : Nat) : Vector (BitVec w) len :=
  ⟨((List.range len).map fun i => freeBits w n (k + i)).toArray, by simp⟩

/-- The free contents of a table register. -/
def freeTable (w n k : Nat) : HuffTable w :=
  { counts := freeVec 9 n k 16, symbols := (Config.freeList n k).map (BitVec.ofNat w)
    nsym := freeBits 9 n (k + 16) }

/-- The free contents of the block's registers. -/
def freeBlock (n : Nat) : Block :=
  { bfinal := freeBits 1 n 0, btype := freeBits 2 n 1, len := freeBits 16 n 2, nlen := freeBits 16 n 3
    copyRem := freeBits 16 n 4 }

/-- The free contents of the dynamic header's registers. -/
def freeDyn (n : Nat) : Dynamic :=
  { hlit := freeBits 5 n 5, hdist := freeBits 5 n 6, hclen := freeBits 4 n 7, clIdx := freeBits 5 n 8
    clLengths := freeVec 3 n 100 19, lenIdx := freeBits 9 n 9, lengths := freeVec 4 n 200 320 }

/-- The free contents of the three tables. -/
def freeTables (n : Nat) : Tables :=
  { tCl := freeTable 5 n 600, tLl := freeTable 9 n 700, tD := freeTable 5 n 800 }

/-- The free contents of the bit reader. -/
def freeReader (n : Nat) : BitReader :=
  { bytePos := freeBits 32 n 10, bitBuf := freeBits 64 n 11, bitCount := freeBits 6 n 12 }

/-! ### Fault entry and START -/

/-- Fault entry (60 R288): `ERR`, `STATUS` and `PHASE` are set; the launch parameters stay (10_state R11);
everything else holds free values (10_state R28, log 1). -/
def takeFault (e : ErrCode) (s : State) : State where
  launch := s.launch
  reader := freeReader s.freeCount
  control := { phase := .fault, status := .fault, err := e }
  block := freeBlock s.freeCount
  dyn := freeDyn s.freeCount
  tables := freeTables s.freeCount
  out :=
    { outMem := memOfCells s.launch.expectedLen.toNat (Config.freeCells s.freeCount)
      outPos := freeBits 32 s.freeCount 13 }
  adler := { a := freeBits 16 s.freeCount 14, b := freeBits 16 s.freeCount 15 }
  matchLen := none
  freeCount := s.freeCount + 1

/-- The effect of START (46 R240): the "after START" column of 10_state R27. Registers it leaves
unspecified hold free values, `OUT_MEM` no value (log 2). -/
def start (s : State) : State where
  launch := s.launch
  reader := { bytePos := 0#32, bitBuf := 0#64, bitCount := 0#6 }
  control := { phase := .zhdr, status := .busy, err := .none }
  block := { freeBlock s.freeCount with bfinal := 0#1 }
  dyn := freeDyn s.freeCount
  tables := freeTables s.freeCount
  out := { outMem := [], outPos := 0#32 }
  adler := { a := 1#16, b := 0#16 }
  matchLen := none
  freeCount := s.freeCount + 1

/-- The outcome of a meaning that started in `s`: a raised fault is taken, a next state. -/
def settle (s : State) (r : Res State) : Outcome :=
  match r with
  | .ok s' => .next s'
  | .error (.raise e) => .next (takeFault e s)
  | .error (.stuck f) => .fault f
  | .error (.refuse r) => .refused r

/-! ### The bit reader -/

/-- The refill loop of READ (40 R91): pulls whole bytes while fewer than `n` bits are held; the first
argument bounds the rounds (each brings 8 bits, so `n` rounds are enough). -/
def pullBytes (l : Launch) (n : Nat) : Nat → BitReader → Res BitReader
  | 0, r => .ok r
  | k + 1, r =>
    if r.bitCount.toNat < n then
      if l.inLen.toNat ≤ r.bytePos.toNat then .error (.raise .inputExhausted)
      else
        match memRead l.inMem r.bytePos.toNat with
        | none => .error (.stuck .inByteAbsent)
        | some b =>
          pullBytes l n k
            { bytePos := r.bytePos + 1#32
              bitBuf := r.bitBuf ||| (b.setWidth 64 <<< r.bitCount.toNat)
              bitCount := r.bitCount + 8#6 }
    else .ok r

/-- Takes the low `n` bits of `BIT_BUF`: the last three lines of READ (40 R91). -/
def takeBits (n : Nat) (r : BitReader) : Nat × BitReader :=
  (r.bitBuf.toNat % 2 ^ n,
    { r with bitBuf := r.bitBuf >>> n, bitCount := r.bitCount - BitVec.ofNat 6 n })

/-- `READ(n)` (40 R91, R92), for `n` up to 32. -/
def readBits (l : Launch) (n : Nat) (r : BitReader) : Res (Nat × BitReader) :=
  match pullBytes l n n r with
  | .ok r' => .ok (takeBits n r')
  | .error e => .error e

/-- `ALIGN()` (40 R93). -/
def alignReader (r : BitReader) : BitReader :=
  { r with
    bitBuf := r.bitBuf >>> (r.bitCount.toNat % 8)
    bitCount := r.bitCount - BitVec.ofNat 6 (r.bitCount.toNat % 8) }

/-- The decoder's refusals as the engine has them (60 R272, R281); the last three cannot arise from
tables that BUILD left (log 12). -/
def stopOf : Reject → Stop
  | .inputExhausted => .raise .inputExhausted
  | .huffmanOverrun => .raise .huffmanOverrun
  | .symbolEntryAbsent => .stuck .symbolEntryAbsent
  | .symbolOutsideAlphabet => .stuck .symbolOutsideAlphabet
  | .noElement => .refuse .noElement

/-- Runs a program of READs and ALIGNs over the bit reader's registers. -/
def runProg {α : Type} (l : Launch) : BitProg α → BitReader → Res (α × BitReader)
  | .done a, r => .ok (a, r)
  | .reject e, _ => .error (stopOf e)
  | .read n k, r =>
    match readBits l n r with
    | .ok (v, r') => runProg l (k v) r'
    | .error e => .error e
  | .align k, r => runProg l k (alignReader r)

/-! ### BUILD -/

/-- `BUILD(T, L, n)` (41 R101): the table, or `ERR_CODE_LENGTHS` (60 R278). -/
def build (w : Nat) (strict : Bool) (L : List Nat) : Res (HuffTable w) :=
  match buildTable w strict L with
  | some T => .ok T
  | none => .error (.raise .codeLengths)

/-! ### The output -/

/-- One byte into the checksum (46 R251): `b` uses the new `a`. -/
def adlerStep (c : Adler) (byte : Byte) : Adler :=
  { a := BitVec.ofNat 16 ((c.a.toNat + byte.toNat) % Config.adlerMod)
    b := BitVec.ofNat 16
      ((c.b.toNat + (c.a.toNat + byte.toNat) % Config.adlerMod) % Config.adlerMod) }

/-- `OUT_APPEND(b)` (20 R47). -/
def outAppend (byte : Byte) (s : State) : Res State :=
  if s.launch.expectedLen.toNat ≤ s.out.outPos.toNat then .error (.raise .sizeMismatch)
  else
    .ok (s.setOut
      { outMem := memWrite s.out.outMem s.out.outPos.toNat byte, outPos := s.out.outPos + 1#32 }
      (adlerStep s.adler byte))

/-- The copy of a match (45 R164): `OUT_APPEND(MemRead(OUT, OUT_POS - distance, 1))` so many times, each
read after the write before it (20 R51). -/
def copyMatch (distance : Nat) : Nat → State → Res State
  | 0, s => .ok s
  | k + 1, s =>
    match memRead s.out.outMem (s.out.outPos.toNat - distance) with
    | none => .error (.stuck .outByteAbsent)
    | some byte =>
      match outAppend byte s with
      | .ok s' => copyMatch distance k s'
      | .error e => .error e

end Sys2Proof.Machine
end

