-- ==== Sys2Proof/Machine/Load.lean ====
section
/-! DEFINITION. Placing one word of spec/opcode_table.json where the next step fetches (log 8, log 9). -/

namespace Sys2Proof.Machine

open Sys2Proof

/-- The state in which the next step reads a table word: its stream bits at the start of `IN_MEM`, zeros
after them; the bit reader at bit 0; the phase, block type, tables and pending length the word's
format needs; `STATUS` as in any running phase. -/
def placeTableWord (s : State) (nbits w : Nat) : State :=
  match tableSlot s.ctx nbits w with
  | none => s
  | some (c, bits) =>
    { s with
      launch :=
        { s.launch with
          inMem := memWriteBytes [] 0 (slotBytes bits)
          inLen := BitVec.ofNat 32 (slotBytes bits).length }
      reader := { bytePos := 0#32, bitBuf := 0#64, bitCount := 0#6 }
      control := { s.control with phase := c.phase, status := .busy }
      block := { s.block with btype := c.btype }
      tables := { tCl := c.tCl, tLl := c.tLl, tD := c.tD }
      matchLen := if c.matchPending then some (s.matchLen.getD 3#9) else none }

end Sys2Proof.Machine
end

