-- ==== Sys2Proof/Machine/Flags.lean ====
section
/-! DEFINITION. The two flags `BFINAL` and `STATUS` (10_state R16), the strictness flags of `CFG` (R17), the
encodings of the enumerated registers, and what the end of a block does with `BFINAL` (43 R123). -/

namespace Sys2Proof.Machine

open Sys2Proof

/-- `STATUS`'s 2-bit encoding (10_state R16). -/
def statusCode : Status → BitVec 2
  | .idle => 0
  | .busy => 1
  | .done => 2
  | .fault => 3

/-- `PHASE`'s encoding (10_state R15). -/
def phaseCode : Phase → BitVec 4
  | .idle => 0
  | .zhdr => 1
  | .blockHdr => 2
  | .storedHdr => 3
  | .storedCopy => 4
  | .fixedSetup => 5
  | .dynHdr => 6
  | .dynClen => 7
  | .dynLengths => 8
  | .dynBuild => 9
  | .symbol => 10
  | .endCheck => 11
  | .trailer => 12
  | .done => 13
  | .fault => 14

/-- `ERR[3:0]` (60 R271). -/
def errCode : ErrCode → BitVec 4
  | .none => 0
  | .inputExhausted => 1
  | .zlibMethod => 2
  | .zlibFcheck => 3
  | .zlibFdict => 4
  | .btypeReserved => 5
  | .storedNlen => 6
  | .codeLengths => 7
  | .repeatNoPrev => 8
  | .repeatOverflow => 9
  | .huffmanOverrun => 10
  | .litlenSymbol => 11
  | .distSymbol => 12
  | .distTooFar => 13
  | .sizeMismatch => 14
  | .adlerMismatch => 15

/-- `STRICT_NLEN`: `CFG` bit 0 (10_state R17). -/
def strictNlen (l : Launch) : Bool := l.cfg.getLsbD 0

/-- `STRICT_CODES`: `CFG` bit 1 (10_state R17). -/
def strictCodes (l : Launch) : Bool := l.cfg.getLsbD 1

/-- Latches the block header (43 R120): `BFINAL`, `BTYPE`, and the phase that follows. -/
def latchBlock (bfinal : BitVec 1) (btype : BitVec 2) (p : Phase) (s : State) : State :=
  (s.setBlock { s.block with bfinal := bfinal, btype := btype }).setPhase p

/-- The phase after the end of a block (43 R123): the next header, or the size check when `BFINAL` is set. -/
def phaseAfterBlock (b : Block) : Phase :=
  if b.bfinal = 1#1 then .endCheck else .blockHdr

/-- The end of a block (43 R123). -/
def endOfBlock (s : State) : State :=
  s.setPhase (phaseAfterBlock s.block)

end Sys2Proof.Machine
end

