-- ==== Sys2Proof/Machine/Operands.lean ====
section
/-! DEFINITION. Operand assembly (30_encoding R65 to R67, R75, R76): the constant tables, and
`base + READ(e)`, the one form an assembled operand has. -/

namespace Sys2Proof.Machine

open Sys2Proof

/-- `CL_ORDER` (R65). -/
def clOrder : List Nat :=
  [16, 17, 18, 0, 8, 7, 9, 6, 10, 5, 11, 4, 12, 3, 13, 2, 14, 1, 15]

/-- `N_LL = HLIT + 257` (10_state R21). -/
def nLl (d : Dynamic) : Nat := d.hlit.toNat + 257

/-- `N_D = HDIST + 1` (10_state R21). -/
def nD (d : Dynamic) : Nat := d.hdist.toNat + 1

/-- `N_CODE = HCLEN + 4` (10_state R21). -/
def nCode (d : Dynamic) : Nat := d.hclen.toNat + 4

/-- `LBASE` (R75), indexed by symbol - 257. -/
def lbase : List Nat :=
  [3, 4, 5, 6, 7, 8, 9, 10, 11, 13, 15, 17, 19, 23, 27, 31, 35, 43, 51, 59, 67, 83, 99, 115, 131, 163,
    195, 227, 258]

/-- `LEXT` (R75), indexed by symbol - 257. -/
def lext : List Nat :=
  [0, 0, 0, 0, 0, 0, 0, 0, 1, 1, 1, 1, 2, 2, 2, 2, 3, 3, 3, 3, 4, 4, 4, 4, 5, 5, 5, 5, 0]

/-- `DBASE` (R76). -/
def dbase : List Nat :=
  [1, 2, 3, 4, 5, 7, 9, 13, 17, 25, 33, 49, 65, 97, 129, 193, 257, 385, 513, 769, 1025, 1537, 2049,
    3073, 4097, 6145, 8193, 12289, 16385, 24577]

/-- `DEXT` (R76). -/
def dext : List Nat :=
  [0, 0, 0, 0, 1, 1, 2, 2, 3, 3, 4, 4, 5, 5, 6, 6, 7, 7, 8, 8, 9, 9, 10, 10, 11, 11, 12, 12, 13, 13]

/-- `base + READ(e)` (R67), with the bit reader moved on. -/
def readOperand (base e : Nat) (s : State) : Res (Nat × State) :=
  match readBits s.launch e s.reader with
  | .ok (v, r) => .ok (base + v, s.setReader r)
  | .error stop => .error stop

/-- The four trailer bytes as one number, first byte most significant (20 R45, 46 R248). -/
def trailerValue (b0 b1 b2 b3 : BitVec 8) : BitVec 32 := b0 ++ b1 ++ b2 ++ b3

/-- The checksum `(ADLER_B << 16) | ADLER_A` (46 R251). -/
def checksum (c : Adler) : BitVec 32 := c.b ++ c.a

end Sys2Proof.Machine
end

