-- ==== Sys2Proof/Machine/Control.lean ====
section
/-! DEFINITION. The bit-free steps (10_state R15): fixed table setup (44 R135), the dynamic block's tables (44
R150, R151), the size check (46 R247). -/

namespace Sys2Proof.Machine

open Sys2Proof

/-- Builds `T_LL`, then `T_D`, and enters the symbol loop (44 R135, R151). -/
def buildBlockTables (litlen dist : List Nat) (s : State) : Outcome :=
  settle s (
    match build 9 (strictCodes s.launch) litlen with
    | .error e => .error e
    | .ok tLl =>
      match build 5 (strictCodes s.launch) dist with
      | .error e => .error e
      | .ok tD => .ok ((s.setTables { s.tables with tLl := tLl, tD := tD }).setPhase .symbol))

/-- `PH_FIXED_SETUP` (44 R135). -/
def fixedSetup (s : State) : Outcome :=
  buildBlockTables fixedLitlenLengths fixedDistLengths s

/-- The literal/length lengths: `LENGTHS[0 .. N_LL-1]` (44 R150). -/
def litlenLengths (d : Dynamic) : List Nat :=
  (d.lengths.toList.take (nLl d)).map BitVec.toNat

/-- The distance lengths: `LENGTHS[N_LL .. N_LL+N_D-1]` (44 R150). -/
def distLengths (d : Dynamic) : List Nat :=
  ((d.lengths.toList.drop (nLl d)).take (nD d)).map BitVec.toNat

/-- `PH_DYN_BUILD` (44 R150, R151). -/
def dynBuild (s : State) : Outcome :=
  buildBlockTables (litlenLengths s.dyn) (distLengths s.dyn) s

/-- `PH_END_CHECK` (46 R247). -/
def endCheck (s : State) : Outcome :=
  settle s (
    if s.out.outPos ≠ s.launch.expectedLen then .error (.raise .sizeMismatch)
    else .ok (s.setPhase .trailer))

end Sys2Proof.Machine
end

