-- ==== Sys2Proof/Machine/Block.lean ====
section
/-! DEFINITION. The block header and the stored block (43_block_header_stored). -/

namespace Sys2Proof.Machine

open Sys2Proof

/-- `BLOCK` with `BTYPE` 0 (R120). -/
def execBlockStored (bfinal : BitVec 1) (s : State) : Outcome :=
  .next (latchBlock bfinal 0#2 .storedHdr s)

/-- `BLOCK` with `BTYPE` 1 (R120). -/
def execBlockFixed (bfinal : BitVec 1) (s : State) : Outcome :=
  .next (latchBlock bfinal 1#2 .fixedSetup s)

/-- `BLOCK` with `BTYPE` 2 (R120). -/
def execBlockDynamic (bfinal : BitVec 1) (s : State) : Outcome :=
  .next (latchBlock bfinal 2#2 .dynHdr s)

/-- `BLOCK` with `BTYPE` 3 (R122): `ERR_BTYPE_RESERVED`, whatever `BFINAL` is. -/
def execBlockReserved (_bfinal : BitVec 1) (s : State) : Outcome :=
  settle s (.error (.raise .btypeReserved))

/-- `STORED_HDR` (R125, R126). -/
def execStoredHdr (len nlen : BitVec 16) (s : State) : Outcome :=
  settle s (
    if strictNlen s.launch ∧ nlen ≠ len ^^^ 0xFFFF#16 then .error (.raise .storedNlen)
    else
      let s' := s.setBlock { s.block with len := len, nlen := nlen, copyRem := len }
      .ok (if len = 0#16 then endOfBlock s' else s'.setPhase .storedCopy))

/-- `COPY_REM <- COPY_REM - 1`, and the end of the block at 0 (R127). -/
def countStored (s : State) : State :=
  let s' := s.setBlock { s.block with copyRem := s.block.copyRem - 1#16 }
  if s.block.copyRem - 1#16 = 0#16 then endOfBlock s' else s'

/-- `STORED_BYTE` (R127). -/
def execStoredByte (b : BitVec 8) (s : State) : Outcome :=
  settle s (
    match outAppend b s with
    | .ok s' => .ok (countStored s')
    | .error e => .error e)

end Sys2Proof.Machine
end

