-- ==== Sys2Proof/Machine/Dynamic.lean ====
section
/-! DEFINITION. The dynamic block's header, code-length fields and code-length symbols
(44_fixed_dynamic_tables R140 to R149). -/

namespace Sys2Proof.Machine

open Sys2Proof

/-- `DYN_HDR` (R140); no range check on the counts (R141). -/
def execDynHdr (hlit hdist : BitVec 5) (hclen : BitVec 4) (s : State) : Outcome :=
  .next ((s.setDyn
    { s.dyn with
      hlit := hlit, hdist := hdist, hclen := hclen, clIdx := 0#5
      clLengths := Vector.replicate 19 0#3 }).setPhase .dynClen)

/-- `CLEN` (R142): one field; the last one builds `T_CL` (R143). -/
def execClen (v : BitVec 3) (s : State) : Outcome :=
  match clOrder[s.dyn.clIdx.toNat]? with
  | none => .fault .arrayIndexOutside
  | some sym =>
    let d : Dynamic :=
      { s.dyn with clLengths := s.dyn.clLengths.setIfInBounds sym v, clIdx := s.dyn.clIdx + 1#5 }
    if d.clIdx.toNat = nCode d then
      settle s (
        match build 5 (strictCodes s.launch) (d.clLengths.toList.map BitVec.toNat) with
        | .ok T =>
          .ok (((s.setDyn { d with lenIdx := 0#9 }).setTables { s.tables with tCl := T }).setPhase
            .dynLengths)
        | .error e => .error e)
    else .next (s.setDyn d)

/-- `LENGTHS[i .. i+rep-1] <- v`. -/
def fillLengths (i : Nat) (v : BitVec 4) : Nat → Vector (BitVec 4) 320 → Vector (BitVec 4) 320
  | 0, ls => ls
  | rep + 1, ls => fillLengths (i + 1) v rep (ls.setIfInBounds i v)

/-- Appends `rep` lengths `v` (R145 to R148); exactly at the last one the tables are built next (R144). -/
def appendLengths (v : BitVec 4) (rep : Nat) (s : State) : State :=
  let s' := s.setDyn
    { s.dyn with
      lengths := fillLengths s.dyn.lenIdx.toNat v rep s.dyn.lengths
      lenIdx := s.dyn.lenIdx + BitVec.ofNat 9 rep }
  if s'.dyn.lenIdx.toNat = nLl s.dyn + nD s.dyn then s'.setPhase .dynBuild else s'

/-- `CL_LEN v` (R145). -/
def execClLen (v : BitVec 4) (s : State) : Outcome :=
  if s.dyn.lenIdx.toNat < 320 then .next (appendLengths v 1 s) else .fault .arrayIndexOutside

/-- A repeat (R146 to R149): the count `base + READ(e)`, then the check against `N_LL + N_D`, then the run. -/
def repeatLengths (v : BitVec 4) (base e : Nat) (s : State) : Res State :=
  match readOperand base e s with
  | .ok (rep, s') =>
    if nLl s.dyn + nD s.dyn < s.dyn.lenIdx.toNat + rep then .error (.raise .repeatOverflow)
    else .ok (appendLengths v rep s')
  | .error stop => .error stop

/-- The last entry written to `LENGTHS` (R146); used only below `LEN_IDX`, which the overflow check bounds by 320. -/
def previousLength (d : Dynamic) : BitVec 4 :=
  d.lengths.getD (d.lenIdx.toNat - 1) 0#4

/-- `CL_16` (R146): no previous length is a fault before the extra bits are read. -/
def execCl16 (s : State) : Outcome :=
  settle s (
    if s.dyn.lenIdx = 0#9 then .error (.raise .repeatNoPrev)
    else repeatLengths (previousLength s.dyn) 3 2 s)

/-- `CL_17` (R147). -/
def execCl17 (s : State) : Outcome :=
  settle s (repeatLengths 0#4 3 3 s)

/-- `CL_18` (R148). -/
def execCl18 (s : State) : Outcome :=
  settle s (repeatLengths 0#4 11 7 s)

end Sys2Proof.Machine
end

