-- ==== Sys2Proof/Machine/Distance.lean ====
section
/-! DEFINITION. The distance symbols 0 to 31 (45_symbol_loop R163 to R168, R200 to R229): the second half of a
match, with the copy. -/

namespace Sys2Proof.Machine

open Sys2Proof

/-- `distance <- DBASE + READ(DEXT)`, the check against `OUT_POS` (R167), the copy (R164, R168). A distance
symbol with no length before it is not in the grammar (30 R60, log 23). -/
def distanceSymbol (base e : Nat) (s : State) : Outcome :=
  match s.matchLen with
  | none => .refused .distanceWithoutLength
  | some length =>
    settle s (
      match readOperand base e s with
      | .ok (distance, s') =>
        if s'.out.outPos.toNat < distance then .error (.raise .distTooFar)
        else copyMatch distance length.toNat (s'.setMatchLen none)
      | .error stop => .error stop)

/-- `DIST0` (R200): distance 1, 0 extra bits. -/
def execDist0 (s : State) : Outcome := distanceSymbol 1 0 s

/-- `DIST1` (R201): distance 2, 0 extra bits. -/
def execDist1 (s : State) : Outcome := distanceSymbol 2 0 s

/-- `DIST2` (R202): distance 3, 0 extra bits. -/
def execDist2 (s : State) : Outcome := distanceSymbol 3 0 s

/-- `DIST3` (R203): distance 4, 0 extra bits. -/
def execDist3 (s : State) : Outcome := distanceSymbol 4 0 s

/-- `DIST4` (R204): distance 5..6, 1 extra bits. -/
def execDist4 (s : State) : Outcome := distanceSymbol 5 1 s

/-- `DIST5` (R205): distance 7..8, 1 extra bits. -/
def execDist5 (s : State) : Outcome := distanceSymbol 7 1 s

/-- `DIST6` (R206): distance 9..12, 2 extra bits. -/
def execDist6 (s : State) : Outcome := distanceSymbol 9 2 s

/-- `DIST7` (R207): distance 13..16, 2 extra bits. -/
def execDist7 (s : State) : Outcome := distanceSymbol 13 2 s

/-- `DIST8` (R208): distance 17..24, 3 extra bits. -/
def execDist8 (s : State) : Outcome := distanceSymbol 17 3 s

/-- `DIST9` (R209): distance 25..32, 3 extra bits. -/
def execDist9 (s : State) : Outcome := distanceSymbol 25 3 s

/-- `DIST10` (R210): distance 33..48, 4 extra bits. -/
def execDist10 (s : State) : Outcome := distanceSymbol 33 4 s

/-- `DIST11` (R211): distance 49..64, 4 extra bits. -/
def execDist11 (s : State) : Outcome := distanceSymbol 49 4 s

/-- `DIST12` (R212): distance 65..96, 5 extra bits. -/
def execDist12 (s : State) : Outcome := distanceSymbol 65 5 s

/-- `DIST13` (R213): distance 97..128, 5 extra bits. -/
def execDist13 (s : State) : Outcome := distanceSymbol 97 5 s

/-- `DIST14` (R214): distance 129..192, 6 extra bits. -/
def execDist14 (s : State) : Outcome := distanceSymbol 129 6 s

/-- `DIST15` (R215): distance 193..256, 6 extra bits. -/
def execDist15 (s : State) : Outcome := distanceSymbol 193 6 s

/-- `DIST16` (R216): distance 257..384, 7 extra bits. -/
def execDist16 (s : State) : Outcome := distanceSymbol 257 7 s

/-- `DIST17` (R217): distance 385..512, 7 extra bits. -/
def execDist17 (s : State) : Outcome := distanceSymbol 385 7 s

/-- `DIST18` (R218): distance 513..768, 8 extra bits. -/
def execDist18 (s : State) : Outcome := distanceSymbol 513 8 s

/-- `DIST19` (R219): distance 769..1024, 8 extra bits. -/
def execDist19 (s : State) : Outcome := distanceSymbol 769 8 s

/-- `DIST20` (R220): distance 1025..1536, 9 extra bits. -/
def execDist20 (s : State) : Outcome := distanceSymbol 1025 9 s

/-- `DIST21` (R221): distance 1537..2048, 9 extra bits. -/
def execDist21 (s : State) : Outcome := distanceSymbol 1537 9 s

/-- `DIST22` (R222): distance 2049..3072, 10 extra bits. -/
def execDist22 (s : State) : Outcome := distanceSymbol 2049 10 s

/-- `DIST23` (R223): distance 3073..4096, 10 extra bits. -/
def execDist23 (s : State) : Outcome := distanceSymbol 3073 10 s

/-- `DIST24` (R224): distance 4097..6144, 11 extra bits. -/
def execDist24 (s : State) : Outcome := distanceSymbol 4097 11 s

/-- `DIST25` (R225): distance 6145..8192, 11 extra bits. -/
def execDist25 (s : State) : Outcome := distanceSymbol 6145 11 s

/-- `DIST26` (R226): distance 8193..12288, 12 extra bits. -/
def execDist26 (s : State) : Outcome := distanceSymbol 8193 12 s

/-- `DIST27` (R227): distance 12289..16384, 12 extra bits. -/
def execDist27 (s : State) : Outcome := distanceSymbol 12289 12 s

/-- `DIST28` (R228): distance 16385..24576, 13 extra bits. -/
def execDist28 (s : State) : Outcome := distanceSymbol 16385 13 s

/-- `DIST29` (R229): distance 24577..32768, 13 extra bits. -/
def execDist29 (s : State) : Outcome := distanceSymbol 24577 13 s

/-- Distance symbol 30 (R166): `ERR_DIST_SYMBOL`, before any extra bits are read. -/
def execDist30Reserved (s : State) : Outcome := settle s (.error (.raise .distSymbol))

/-- Distance symbol 31 (R166): `ERR_DIST_SYMBOL`, before any extra bits are read. -/
def execDist31Reserved (s : State) : Outcome := settle s (.error (.raise .distSymbol))

end Sys2Proof.Machine
end

