-- ==== Sys2Proof/Machine/Length.lean ====
section
/-! DEFINITION. The length symbols 257 to 285 (45_symbol_loop R163, R170 to R198): the first half of a match.
Each assembles the length and leaves it in `matchLen` for the distance symbol that completes it in the
same step (R163, log 6). -/

namespace Sys2Proof.Machine

open Sys2Proof

/-- `length <- LBASE + READ(LEXT)` (R163). -/
def lengthSymbol (base e : Nat) (s : State) : Outcome :=
  settle s (
    match readOperand base e s with
    | .ok (length, s') => .ok (s'.setMatchLen (some (BitVec.ofNat 9 length)))
    | .error stop => .error stop)

/-- `LEN257` (R170): length 3, 0 extra bits. -/
def execLen257 (s : State) : Outcome := lengthSymbol 3 0 s

/-- `LEN258` (R171): length 4, 0 extra bits. -/
def execLen258 (s : State) : Outcome := lengthSymbol 4 0 s

/-- `LEN259` (R172): length 5, 0 extra bits. -/
def execLen259 (s : State) : Outcome := lengthSymbol 5 0 s

/-- `LEN260` (R173): length 6, 0 extra bits. -/
def execLen260 (s : State) : Outcome := lengthSymbol 6 0 s

/-- `LEN261` (R174): length 7, 0 extra bits. -/
def execLen261 (s : State) : Outcome := lengthSymbol 7 0 s

/-- `LEN262` (R175): length 8, 0 extra bits. -/
def execLen262 (s : State) : Outcome := lengthSymbol 8 0 s

/-- `LEN263` (R176): length 9, 0 extra bits. -/
def execLen263 (s : State) : Outcome := lengthSymbol 9 0 s

/-- `LEN264` (R177): length 10, 0 extra bits. -/
def execLen264 (s : State) : Outcome := lengthSymbol 10 0 s

/-- `LEN265` (R178): length 11..12, 1 extra bits. -/
def execLen265 (s : State) : Outcome := lengthSymbol 11 1 s

/-- `LEN266` (R179): length 13..14, 1 extra bits. -/
def execLen266 (s : State) : Outcome := lengthSymbol 13 1 s

/-- `LEN267` (R180): length 15..16, 1 extra bits. -/
def execLen267 (s : State) : Outcome := lengthSymbol 15 1 s

/-- `LEN268` (R181): length 17..18, 1 extra bits. -/
def execLen268 (s : State) : Outcome := lengthSymbol 17 1 s

/-- `LEN269` (R182): length 19..22, 2 extra bits. -/
def execLen269 (s : State) : Outcome := lengthSymbol 19 2 s

/-- `LEN270` (R183): length 23..26, 2 extra bits. -/
def execLen270 (s : State) : Outcome := lengthSymbol 23 2 s

/-- `LEN271` (R184): length 27..30, 2 extra bits. -/
def execLen271 (s : State) : Outcome := lengthSymbol 27 2 s

/-- `LEN272` (R185): length 31..34, 2 extra bits. -/
def execLen272 (s : State) : Outcome := lengthSymbol 31 2 s

/-- `LEN273` (R186): length 35..42, 3 extra bits. -/
def execLen273 (s : State) : Outcome := lengthSymbol 35 3 s

/-- `LEN274` (R187): length 43..50, 3 extra bits. -/
def execLen274 (s : State) : Outcome := lengthSymbol 43 3 s

/-- `LEN275` (R188): length 51..58, 3 extra bits. -/
def execLen275 (s : State) : Outcome := lengthSymbol 51 3 s

/-- `LEN276` (R189): length 59..66, 3 extra bits. -/
def execLen276 (s : State) : Outcome := lengthSymbol 59 3 s

/-- `LEN277` (R190): length 67..82, 4 extra bits. -/
def execLen277 (s : State) : Outcome := lengthSymbol 67 4 s

/-- `LEN278` (R191): length 83..98, 4 extra bits. -/
def execLen278 (s : State) : Outcome := lengthSymbol 83 4 s

/-- `LEN279` (R192): length 99..114, 4 extra bits. -/
def execLen279 (s : State) : Outcome := lengthSymbol 99 4 s

/-- `LEN280` (R193): length 115..130, 4 extra bits. -/
def execLen280 (s : State) : Outcome := lengthSymbol 115 4 s

/-- `LEN281` (R194): length 131..162, 5 extra bits. -/
def execLen281 (s : State) : Outcome := lengthSymbol 131 5 s

/-- `LEN282` (R195): length 163..194, 5 extra bits. -/
def execLen282 (s : State) : Outcome := lengthSymbol 163 5 s

/-- `LEN283` (R196): length 195..226, 5 extra bits. -/
def execLen283 (s : State) : Outcome := lengthSymbol 195 5 s

/-- `LEN284` (R197): length 227..258, 5 extra bits. -/
def execLen284 (s : State) : Outcome := lengthSymbol 227 5 s

/-- `LEN285` (R198): length 258, 0 extra bits. -/
def execLen285 (s : State) : Outcome := lengthSymbol 258 0 s

end Sys2Proof.Machine
end

