-- ==== Sys2Proof/Machine/Symbol.lean ====
section
/-! DEFINITION. Literal, end of block and the reserved literal/length symbols (45_symbol_loop R161, R162, R165). -/

namespace Sys2Proof.Machine

open Sys2Proof

/-- `LIT b` (R161). -/
def execLit (b : BitVec 8) (s : State) : Outcome :=
  settle s (outAppend b s)

/-- `EOB` (R162). -/
def execEob (s : State) : Outcome :=
  .next (endOfBlock s)

/-- Literal/length symbol 286 (R165): `ERR_LITLEN_SYMBOL`. -/
def execLitlen286Reserved (s : State) : Outcome :=
  settle s (.error (.raise .litlenSymbol))

/-- Literal/length symbol 287 (R165): `ERR_LITLEN_SYMBOL`. -/
def execLitlen287Reserved (s : State) : Outcome :=
  settle s (.error (.raise .litlenSymbol))

end Sys2Proof.Machine
end

