-- ==== Sys2Proof/Machine/Fixed.lean ====
section
/-! DEFINITION. The forms symbols take in a fixed-Huffman block (30_encoding R71, R72; 44 R135): each row
stands for `first_symbol + x` and does what that symbol does (R81, log 7). -/

namespace Sys2Proof.Machine

open Sys2Proof

/-- The meanings of the literal/length symbols 256 to 287, in order. -/
def litlenMeanings : List (State → Outcome) :=
  [execEob, execLen257, execLen258, execLen259, execLen260, execLen261, execLen262, execLen263,
    execLen264, execLen265, execLen266, execLen267, execLen268, execLen269, execLen270, execLen271,
    execLen272, execLen273, execLen274, execLen275, execLen276, execLen277, execLen278, execLen279,
    execLen280, execLen281, execLen282, execLen283, execLen284, execLen285, execLitlen286Reserved,
    execLitlen287Reserved]

/-- What a literal/length symbol does (45 R160). -/
def runLitlen (sym : Nat) (s : State) : Outcome :=
  if sym < 256 then execLit (BitVec.ofNat 8 sym) s
  else
    match litlenMeanings[sym - 256]? with
    | some meaning => meaning s
    | none => .fault .symbolOutsideAlphabet

/-- The meanings of the distance symbols 0 to 31, in order. -/
def distMeanings : List (State → Outcome) :=
  [execDist0, execDist1, execDist2, execDist3, execDist4, execDist5, execDist6, execDist7,
    execDist8, execDist9, execDist10, execDist11, execDist12, execDist13, execDist14, execDist15,
    execDist16, execDist17, execDist18, execDist19, execDist20, execDist21, execDist22, execDist23,
    execDist24, execDist25, execDist26, execDist27, execDist28, execDist29, execDist30Reserved,
    execDist31Reserved]

/-- What a distance symbol does (45 R160). -/
def runDist (sym : Nat) (s : State) : Outcome :=
  match distMeanings[sym]? with
  | some meaning => meaning s
  | none => .fault .symbolOutsideAlphabet

/-- Code words `000xxxx` (R71): symbol `256 + x`. -/
def execFixedLl256To271 (x : BitVec 4) (s : State) : Outcome := runLitlen (256 + x.toNat) s

/-- Code words `0010xxx` (R71): symbol `272 + x`. -/
def execFixedLl272To279 (x : BitVec 3) (s : State) : Outcome := runLitlen (272 + x.toNat) s

/-- Code words `0011xxxx` (R71): symbol `x`. -/
def execFixedLl0To15 (x : BitVec 4) (s : State) : Outcome := runLitlen x.toNat s

/-- Code words `01xxxxxx` (R71): symbol `16 + x`. -/
def execFixedLl16To79 (x : BitVec 6) (s : State) : Outcome := runLitlen (16 + x.toNat) s

/-- Code words `10xxxxxx` (R71): symbol `80 + x`. -/
def execFixedLl80To143 (x : BitVec 6) (s : State) : Outcome := runLitlen (80 + x.toNat) s

/-- Code words `11000xxx` (R71): symbol `280 + x`. -/
def execFixedLl280To287 (x : BitVec 3) (s : State) : Outcome := runLitlen (280 + x.toNat) s

/-- Code words `11001xxxx` (R71): symbol `144 + x`. -/
def execFixedLl144To159 (x : BitVec 4) (s : State) : Outcome := runLitlen (144 + x.toNat) s

/-- Code words `1101xxxxx` (R71): symbol `160 + x`. -/
def execFixedLl160To191 (x : BitVec 5) (s : State) : Outcome := runLitlen (160 + x.toNat) s

/-- Code words `111xxxxxx` (R71): symbol `192 + x`. -/
def execFixedLl192To255 (x : BitVec 6) (s : State) : Outcome := runLitlen (192 + x.toNat) s

/-- The 5-bit distance codes (R72): symbol `x`. -/
def execFixedD0To31 (x : BitVec 5) (s : State) : Outcome := runDist x.toNat s

end Sys2Proof.Machine
end

