-- ==== Sys2Proof/Machine/Header.lean ====
section
/-! DEFINITION. The zlib header `ZHDR` (46_zlib_driver_adler R241 to R245). -/

namespace Sys2Proof.Machine

open Sys2Proof

/-- `CMF` (30 R61): `CINFO` in bits 7:4, `CM` in bits 3:0. -/
def cmfOf (cm cinfo : BitVec 4) : BitVec 8 := cinfo ++ cm

/-- `FLG` (30 R61): `FLEVEL` in bits 7:6, `FDICT` in bit 5, `FCHECK` in bits 4:0. -/
def flgOf (fcheck : BitVec 5) (fdict : BitVec 1) (flevel : BitVec 2) : BitVec 8 :=
  flevel ++ fdict ++ fcheck

/-- `ZHDR` (R241): the method (R242), the check (R243), the dictionary flag (R244), in this order (60
R287); `CINFO` and `FLEVEL` only enter the check (R245). -/
def execZhdr (cm cinfo : BitVec 4) (fcheck : BitVec 5) (fdict : BitVec 1) (flevel : BitVec 2)
    (s : State) : Outcome :=
  settle s (
    if cm ≠ 8#4 then .error (.raise .zlibMethod)
    else if (256 * (cmfOf cm cinfo).toNat + (flgOf fcheck fdict flevel).toNat) % 31 ≠ 0 then
      .error (.raise .zlibFcheck)
    else if fdict = 1#1 then .error (.raise .zlibFdict)
    else .ok (s.setPhase .blockHdr))

end Sys2Proof.Machine
end

