-- ==== Sys2Proof/Machine/Trailer.lean ====
section
/-! DEFINITION. The trailer `ADLER32` (46_zlib_driver_adler R248, R249). -/

namespace Sys2Proof.Machine

open Sys2Proof

/-- `ADLER32` (R248): all 32 bits must agree (R249); then the run is done (R250). -/
def execAdler32 (bHi bLo aHi aLo : BitVec 8) (s : State) : Outcome :=
  settle s (
    if trailerValue bHi bLo aHi aLo ≠ checksum s.adler then .error (.raise .adlerMismatch)
    else .ok (s.setControl { s.control with phase := .done, status := .done }))

end Sys2Proof.Machine
end

