-- ==== Sys2Proof/Machine/Dispatch.lean ====
section
/-! DEFINITION. What each instruction does: one arm per row of spec/opcode_table.json. -/

namespace Sys2Proof.Machine

open Sys2Proof

def exec (i : Instr) (s : State) : Host.Outcome State Fault Refusal :=
  match i with
  | .zhdr cm cinfo fcheck fdict flevel => Sys2Proof.Machine.execZhdr cm cinfo fcheck fdict flevel s
  | .blockStored bfinal => Sys2Proof.Machine.execBlockStored bfinal s
  | .blockFixed bfinal => Sys2Proof.Machine.execBlockFixed bfinal s
  | .blockDynamic bfinal => Sys2Proof.Machine.execBlockDynamic bfinal s
  | .blockReserved bfinal => Sys2Proof.Machine.execBlockReserved bfinal s
  | .storedHdr len nlen => Sys2Proof.Machine.execStoredHdr len nlen s
  | .storedByte b => Sys2Proof.Machine.execStoredByte b s
  | .dynHdr hlit hdist hclen => Sys2Proof.Machine.execDynHdr hlit hdist hclen s
  | .clen v => Sys2Proof.Machine.execClen v s
  | .adler32 bHi bLo aHi aLo => Sys2Proof.Machine.execAdler32 bHi bLo aHi aLo s
  | .clLen v => Sys2Proof.Machine.execClLen v s
  | .cl16 => Sys2Proof.Machine.execCl16 s
  | .cl17 => Sys2Proof.Machine.execCl17 s
  | .cl18 => Sys2Proof.Machine.execCl18 s
  | .lit b => Sys2Proof.Machine.execLit b s
  | .eob => Sys2Proof.Machine.execEob s
  | .len257 => Sys2Proof.Machine.execLen257 s
  | .len258 => Sys2Proof.Machine.execLen258 s
  | .len259 => Sys2Proof.Machine.execLen259 s
  | .len260 => Sys2Proof.Machine.execLen260 s
  | .len261 => Sys2Proof.Machine.execLen261 s
  | .len262 => Sys2Proof.Machine.execLen262 s
  | .len263 => Sys2Proof.Machine.execLen263 s
  | .len264 => Sys2Proof.Machine.execLen264 s
  | .len265 => Sys2Proof.Machine.execLen265 s
  | .len266 => Sys2Proof.Machine.execLen266 s
  | .len267 => Sys2Proof.Machine.execLen267 s
  | .len268 => Sys2Proof.Machine.execLen268 s
  | .len269 => Sys2Proof.Machine.execLen269 s
  | .len270 => Sys2Proof.Machine.execLen270 s
  | .len271 => Sys2Proof.Machine.execLen271 s
  | .len272 => Sys2Proof.Machine.execLen272 s
  | .len273 => Sys2Proof.Machine.execLen273 s
  | .len274 => Sys2Proof.Machine.execLen274 s
  | .len275 => Sys2Proof.Machine.execLen275 s
  | .len276 => Sys2Proof.Machine.execLen276 s
  | .len277 => Sys2Proof.Machine.execLen277 s
  | .len278 => Sys2Proof.Machine.execLen278 s
  | .len279 => Sys2Proof.Machine.execLen279 s
  | .len280 => Sys2Proof.Machine.execLen280 s
  | .len281 => Sys2Proof.Machine.execLen281 s
  | .len282 => Sys2Proof.Machine.execLen282 s
  | .len283 => Sys2Proof.Machine.execLen283 s
  | .len284 => Sys2Proof.Machine.execLen284 s
  | .len285 => Sys2Proof.Machine.execLen285 s
  | .litlen286Reserved => Sys2Proof.Machine.execLitlen286Reserved s
  | .litlen287Reserved => Sys2Proof.Machine.execLitlen287Reserved s
  | .dist0 => Sys2Proof.Machine.execDist0 s
  | .dist1 => Sys2Proof.Machine.execDist1 s
  | .dist2 => Sys2Proof.Machine.execDist2 s
  | .dist3 => Sys2Proof.Machine.execDist3 s
  | .dist4 => Sys2Proof.Machine.execDist4 s
  | .dist5 => Sys2Proof.Machine.execDist5 s
  | .dist6 => Sys2Proof.Machine.execDist6 s
  | .dist7 => Sys2Proof.Machine.execDist7 s
  | .dist8 => Sys2Proof.Machine.execDist8 s
  | .dist9 => Sys2Proof.Machine.execDist9 s
  | .dist10 => Sys2Proof.Machine.execDist10 s
  | .dist11 => Sys2Proof.Machine.execDist11 s
  | .dist12 => Sys2Proof.Machine.execDist12 s
  | .dist13 => Sys2Proof.Machine.execDist13 s
  | .dist14 => Sys2Proof.Machine.execDist14 s
  | .dist15 => Sys2Proof.Machine.execDist15 s
  | .dist16 => Sys2Proof.Machine.execDist16 s
  | .dist17 => Sys2Proof.Machine.execDist17 s
  | .dist18 => Sys2Proof.Machine.execDist18 s
  | .dist19 => Sys2Proof.Machine.execDist19 s
  | .dist20 => Sys2Proof.Machine.execDist20 s
  | .dist21 => Sys2Proof.Machine.execDist21 s
  | .dist22 => Sys2Proof.Machine.execDist22 s
  | .dist23 => Sys2Proof.Machine.execDist23 s
  | .dist24 => Sys2Proof.Machine.execDist24 s
  | .dist25 => Sys2Proof.Machine.execDist25 s
  | .dist26 => Sys2Proof.Machine.execDist26 s
  | .dist27 => Sys2Proof.Machine.execDist27 s
  | .dist28 => Sys2Proof.Machine.execDist28 s
  | .dist29 => Sys2Proof.Machine.execDist29 s
  | .dist30Reserved => Sys2Proof.Machine.execDist30Reserved s
  | .dist31Reserved => Sys2Proof.Machine.execDist31Reserved s
  | .fixedLl256To271 x => Sys2Proof.Machine.execFixedLl256To271 x s
  | .fixedLl272To279 x => Sys2Proof.Machine.execFixedLl272To279 x s
  | .fixedLl0To15 x => Sys2Proof.Machine.execFixedLl0To15 x s
  | .fixedLl16To79 x => Sys2Proof.Machine.execFixedLl16To79 x s
  | .fixedLl80To143 x => Sys2Proof.Machine.execFixedLl80To143 x s
  | .fixedLl280To287 x => Sys2Proof.Machine.execFixedLl280To287 x s
  | .fixedLl144To159 x => Sys2Proof.Machine.execFixedLl144To159 x s
  | .fixedLl160To191 x => Sys2Proof.Machine.execFixedLl160To191 x s
  | .fixedLl192To255 x => Sys2Proof.Machine.execFixedLl192To255 x s
  | .fixedD0To31 x => Sys2Proof.Machine.execFixedD0To31 x s

end Sys2Proof.Machine
end

