-- ==== Sys2Proof/Machine/Fetch.lean ====
section
/-! DEFINITION. Fetching an element: the decoder's program over the bit reader's registers, in the context
the registers give (30_encoding R79). -/

namespace Sys2Proof.Machine

open Sys2Proof

/-- The next element, with the bit reader moved past its fields or its code word. -/
def fetch (s : State) : Res (Instr × State) :=
  match runProg s.launch (elementProg s.ctx) s.reader with
  | .ok (i, r) => .ok (i, s.setReader r)
  | .error e => .error e

end Sys2Proof.Machine
end

