-- ==== Sys2Proof/Machine/Sequence.lean ====
section
/-! DEFINITION. One step of a run: what each phase does (10_state R15, 46 R246), a whole match in one step
(45 R160, R163). -/

namespace Sys2Proof.Machine

open Sys2Proof

/-- Fetches an element and executes it; a fault of the fetch is taken (60 R288). -/
def fetchExec (s : State) : Outcome :=
  match fetch s with
  | .ok (i, s') => exec i s'
  | .error e => settle s (.error e)

/-- Completes a match (45 R163): a length symbol is followed by its distance symbol in the same step. -/
def completeMatch (before : State) (o : Outcome) : Outcome :=
  match o with
  | .next s =>
    if before.matchLen.isNone && s.matchLen.isSome then fetchExec s else .next s
  | .fault f => .fault f
  | .refused r => .refused r

/-- One stream element. -/
def elementStep (s : State) : Outcome :=
  completeMatch s (fetchExec s)

/-- One step by phase (46 R246). In `PH_IDLE`, `PH_DONE` and `PH_FAULT` nothing executes (70 R310). -/
def phaseStep (s : State) : Outcome :=
  match s.control.phase with
  | .idle => .next s
  | .zhdr => elementStep s
  | .blockHdr => elementStep s
  | .storedHdr => elementStep s
  | .storedCopy => elementStep s
  | .fixedSetup => fixedSetup s
  | .dynHdr => elementStep s
  | .dynClen => elementStep s
  | .dynLengths => elementStep s
  | .dynBuild => dynBuild s
  | .symbol => elementStep s
  | .endCheck => endCheck s
  | .trailer => elementStep s
  | .done => .next s
  | .fault => .next s

end Sys2Proof.Machine
end

