-- ==== Sys2Proof/Machine/Step.lean ====
section
/-! DEFINITION. The step function, and the placing of one instruction before it. -/

namespace Sys2Proof.Machine

open Sys2Proof

/-- One step of the engine (10_state R15). -/
def step (s : State) : Host.Outcome State Fault Refusal :=
  phaseStep s

/-- The state with one instruction of spec/opcode_table.json where the next step fetches (log 8). -/
def State.withFetchWord (s : State) (nbits w : Nat) : State :=
  placeTableWord s nbits w

end Sys2Proof.Machine
end

