-- ==== Sys2Proof/Abstract.lean ====
section
/-! DEFINITION. The spec's own second descriptions, which the claims hold the machine against: the abstract
view of the bit reader (40 R94), the counting sort and the canonical code of BUILD (41 R101, R103, R104), the
checksum of a byte string (46 R251, R252). The machine uses none of them. -/

namespace Sys2Proof.Abstract

open Sys2Proof Sys2Proof.Machine

/-! ### The bit reader (40 R94) -/

/-- `bit(k)`: bit `k mod 8` of `IN_MEM[k div 8]`; of a byte the host never placed, false (used only where
`Safety.InputPlaced` holds). -/
def streamBit (l : Launch) (k : Nat) : Bool :=
  match memRead l.inMem (k / 8) with
  | some b => b.getLsbD (k % 8)
  | none => false

/-- What `READ(n)` returns at bit position `pos`: the sum of `bit(pos + i) << i`. -/
def fieldAt (l : Launch) (pos n : Nat) : Nat :=
  ((List.range n).map fun i => (streamBit l (pos + i)).toNat * 2 ^ i).sum

/-- The stream bits from position `pos` to the end of the input. -/
def streamFrom (l : Launch) (pos : Nat) : List Bool :=
  (List.range (8 * l.inLen.toNat - pos)).map fun i => streamBit l (pos + i)

/-- `BYTE_POS = (bitpos + 7) div 8`. -/
def bytePosAt (pos : Nat) : Nat := (pos + 7) / 8

/-- The three registers as functions of `bitpos`. -/
def readerAt (l : Launch) (pos : Nat) : BitReader where
  bytePos := BitVec.ofNat 32 (bytePosAt pos)
  bitCount := BitVec.ofNat 6 (8 * bytePosAt pos - pos)
  bitBuf :=
    if 8 * bytePosAt pos - pos = 0 then 0#64
    else
      match memRead l.inMem (bytePosAt pos - 1) with
      | some b => b.setWidth 64 >>> (8 - (8 * bytePosAt pos - pos))
      | none => 0#64

/-- Where `ALIGN()` leaves `bitpos`: `8 * ((bitpos + 7) div 8)`. -/
def alignedPos (pos : Nat) : Nat := 8 * bytePosAt pos

/-! ### BUILD (41 R101, R103, R104) -/

/-- `COUNTS[l]` of a length array, for `l` from 1 to 15; `COUNTS[0]` is 0. -/
def countOf (L : List Nat) (l : Nat) : Nat :=
  if 1 ≤ l ∧ l ≤ 15 then L.count l else 0

/-- The prefix sum `offsets[l]` before the placing loop of R101. -/
def offsetOf (L : List Nat) : Nat → Nat
  | 0 => 0
  | 1 => 0
  | l + 1 => offsetOf L l + countOf L l

/-- The scratch of the placing loop: `offsets` and `SYMBOLS`. -/
structure Placing where
  offsets : List Nat
  symbols : List Nat

/-- One round of the placing loop: symbol `s` with length `len`. -/
def Placing.put (P : Placing) (len s : Nat) : Placing :=
  if len = 0 then P
  else
    { offsets := P.offsets.set len (P.offsets.getD len 0 + 1)
      symbols := P.symbols.set (P.offsets.getD len 0) s }

/-- `SYMBOLS` as R101's listing computes it, `NSYM = offsets[16]` entries. -/
def countingSort (L : List Nat) : List Nat :=
  (L.zipIdx.foldl (fun (P : Placing) p => P.put p.1 p.2)
    { offsets := (List.range 17).map (offsetOf L)
      symbols := List.replicate (offsetOf L 16) 0 }).symbols

/-- `first_code[l]` (R103). -/
def firstCode (L : List Nat) : Nat → Nat
  | 0 => 0
  | 1 => 0
  | l + 1 => 2 * (firstCode L l + countOf L l)

/-- `code(s)` (R103): the first code of its length, plus the earlier symbols of that length. -/
def canonicalCode (L : List Nat) (s : Nat) : Nat :=
  firstCode L (L.getD s 0) + (L.take s).count (L.getD s 0)

/-- The Kraft sum of a length array, times `2^15`: above `2^15` the code is over-subscribed (00_scope, glossary). -/
def kraftSum (L : List Nat) : Nat :=
  ((L.filter fun len => len ≠ 0).map fun len => 2 ^ (15 - len)).sum

/-! ### Adler-32 (46 R251) -/

/-- The loop of `ADLER32_OF` from `(a, b)`. -/
def adlerLoop : Nat × Nat → List Byte → Nat × Nat
  | c, [] => c
  | (a, b), d :: ds => adlerLoop ((a + d.toNat) % 65521, (b + (a + d.toNat) % 65521) % 65521) ds

/-- `ADLER32_OF(d, n)`. -/
def adler32Of (d : List Byte) : BitVec 32 :=
  BitVec.ofNat 32 (((adlerLoop (1, 0) d).2 <<< 16) ||| (adlerLoop (1, 0) d).1)

end Sys2Proof.Abstract
end

