-- ==== Sys2Proof/Machine/HostPort.lean ====
section
/-! DEFINITION. The host's side (10_state R17, 70 R302, R305, R306): reads and writes of the registers by
name, of the two memories, START and hardware reset. They are no steps of the engine (log 9). -/

namespace Sys2Proof.Machine

open Sys2Proof

/-- The host-visible registers (10_state R17). -/
inductive HostReg where
  | inLen
  | expectedLen
  | cfg
  | ctrl
  | status
  | err
  | outLen
  | inConsumed
  deriving DecidableEq, Repr

/-- What a host read answers: the value and the state after it, or a stop. -/
abbrev HostAnswer (w : Nat) := Host.Outcome (BitVec w × State) Fault Refusal

/-- A write that R17 allows only while not `BUSY` (93 U9). -/
def unlessBusy (s : State) (s' : State) : Outcome :=
  if s.control.status = .busy then .refused .hostWriteWhileBusy else .next s'

/-- A host write of a register (R17). `CTRL`: bit 0 written 1 while not `BUSY` is START (46 R240), anything
else has no effect; bits a register does not have are dropped. -/
def hostWrite (r : HostReg) (v : BitVec 32) (s : State) : Outcome :=
  match r with
  | .inLen => unlessBusy s (s.setLaunch { s.launch with inLen := v })
  | .expectedLen => unlessBusy s (s.setLaunch { s.launch with expectedLen := v })
  | .cfg => unlessBusy s (s.setLaunch { s.launch with cfg := v.setWidth 2 })
  | .ctrl =>
    if v.getLsbD 0 && s.control.status != .busy then .next (start s) else .next s
  | .status => .refused .hostWriteReadOnly
  | .err => .refused .hostWriteReadOnly
  | .outLen => .refused .hostWriteReadOnly
  | .inConsumed => .refused .hostWriteReadOnly

/-- A launch register as the host reads it: only while not `BUSY` (R17, log 13). -/
def launchRead (v : BitVec 32) (s : State) : HostAnswer 32 :=
  if s.control.status = .busy then .refused .hostReadWhileBusy else .next (v, s)

/-- A view of a position (R17): its value after reset and when `DONE`; while `BUSY` and after a fault a
free value, drawn anew for each read (70 R306, 93 U10, U13; log 13). -/
def positionRead (v : BitVec 32) (s : State) : HostAnswer 32 :=
  match s.control.status with
  | .idle => .next (v, s)
  | .done => .next (v, s)
  | .busy => .next (freeBits 32 s.freeCount 20, s.drawn)
  | .fault => .next (freeBits 32 s.freeCount 20, s.drawn)

/-- A host read of a register (R17): `CTRL` reads as 0, `ERR` bits 7:4 as zero. -/
def hostRead (r : HostReg) (s : State) : HostAnswer 32 :=
  match r with
  | .inLen => launchRead s.launch.inLen s
  | .expectedLen => launchRead s.launch.expectedLen s
  | .cfg => launchRead (s.launch.cfg.setWidth 32) s
  | .ctrl => .next (0#32, s)
  | .status => .next ((statusCode s.control.status).setWidth 32, s)
  | .err => .next ((errCode s.control.err).setWidth 32, s)
  | .outLen => positionRead s.out.outPos s
  | .inConsumed => positionRead s.reader.bytePos s

/-- The host places one byte of `IN_MEM` (70 R302, R305). -/
def hostWriteIn (addr : Addr) (b : Byte) (s : State) : Outcome :=
  unlessBusy s (s.setLaunch { s.launch with inMem := memWrite s.launch.inMem addr.toNat b })

/-- The host writes one byte of `OUT_MEM` (70 R305 forbids it only while `BUSY`). -/
def hostWriteOut (addr : Addr) (b : Byte) (s : State) : Outcome :=
  if s.launch.expectedLen.toNat ≤ addr.toNat then .fault .outAddressOutside
  else unlessBusy s (s.setOut { s.out with outMem := memWrite s.out.outMem addr.toNat b } s.adler)

/-- The host reads one byte of `OUT_MEM`: its value when `DONE` (10_state R28), a free value otherwise (R306). -/
def hostReadOut (addr : Addr) (s : State) : HostAnswer 8 :=
  if s.launch.expectedLen.toNat ≤ addr.toNat then .fault .outAddressOutside
  else if s.control.status = .done then
    match memRead s.out.outMem addr.toNat with
    | some b => .next (b, s)
    | none => .fault .outByteAbsent
  else .next (freeBits 8 s.freeCount 21, s.drawn)

/-- Hardware reset (70 R300): the reset state, with the host's `IN_MEM` (10_state R27; log 17). -/
def hardwareReset (s : State) : State :=
  { State.reset with
    launch := { State.reset.launch with inMem := s.launch.inMem }
    freeCount := s.freeCount }

end Sys2Proof.Machine
end

