-- ==== Sys2Proof/Safety.lean ====
section
/-! DEFINITION. What the claims speak of: the invariants the spec gives the registers, the invariant of a run,
what it is for an element to be readable, and how a fault shows. -/

namespace Sys2Proof.Machine

open Sys2Proof Sys2Proof.Abstract

/-- Every input byte below `IN_LEN` has been placed by the host (70 R302). -/
def InputPlaced (l : Launch) : Prop :=
  ∀ a < l.inLen.toNat, (memRead l.inMem a).isSome = true

/-- Invariant I-BR (10_state R12): at most 7 bits are held, and they are the high bits of the last byte pulled. -/
def ReaderInv (l : Launch) (r : BitReader) : Prop :=
  r.bytePos.toNat ≤ l.inLen.toNat ∧ r.bitCount.toNat ≤ 7 ∧
  (r.bitCount.toNat = 0 → r.bitBuf = 0#64) ∧
  (r.bitCount.toNat ≠ 0 → r.bytePos.toNat ≠ 0 ∧
    (memRead l.inMem (r.bytePos.toNat - 1)).map
      (fun b : Byte => b.setWidth 64 >>> (8 - r.bitCount.toNat)) = some r.bitBuf)

/-- Invariant I-HT (10_state R22), with the symbols' range (42 R113, 45 R169). -/
def TableInv {w : Nat} (n : Nat) (T : HuffTable w) : Prop :=
  lengthCount T 0 = 0 ∧ ((List.range 16).map (lengthCount T)).sum = T.nsym.toNat ∧
  T.symbols.length = T.nsym.toNat ∧ (∀ sym ∈ T.symbols, sym.toNat < n) ∧ T.symbols.Nodup

/-- The bytes written so far, in order. -/
def outBytes (s : State) : List Byte := s.out.outMem.map Prod.snd

/-- The output registers (10_state R18, R19): the bytes `0 .. OUT_POS-1` and no other have been written, and the
checksum is theirs. -/
def OutputInv (s : State) : Prop :=
  s.out.outPos.toNat ≤ s.launch.expectedLen.toNat ∧
  s.out.outMem.map Prod.fst = List.range s.out.outPos.toNat ∧
  checksum s.adler = adler32Of (outBytes s)

/-- `STATUS`, `ERR` and `PHASE` agree (10_state R15 to R17). -/
def Coherent (c : Control) : Prop :=
  (c.status = .idle ↔ c.phase = .idle) ∧ (c.status = .done ↔ c.phase = .done) ∧
  (c.status = .fault ↔ c.phase = .fault) ∧ (c.err = .none ↔ c.status ≠ .fault)

/-- What holds in each running phase beside that (43 R127; 44 R140 to R151; 45 R160; 46 R246, R247). -/
def PhaseInv (s : State) : Prop :=
  match s.control.phase with
  | .idle => True
  | .zhdr => s.bitpos = 0 ∧ s.out.outPos = 0#32
  | .blockHdr => True
  | .storedHdr => s.block.btype = 0#2
  | .storedCopy =>
    s.block.btype = 0#2 ∧ s.reader.bitCount = 0#6 ∧ s.block.copyRem ≠ 0#16 ∧
      s.block.copyRem.toNat ≤ s.block.len.toNat
  | .fixedSetup => s.block.btype = 1#2
  | .dynHdr => s.block.btype = 2#2
  | .dynClen =>
    s.block.btype = 2#2 ∧ s.dyn.clIdx.toNat < nCode s.dyn ∧
      ∀ j < 19, s.dyn.clIdx.toNat ≤ j → s.dyn.clLengths.getD (clOrder.getD j 0) 0#3 = 0#3
  | .dynLengths =>
    s.block.btype = 2#2 ∧ s.dyn.lenIdx.toNat < nLl s.dyn + nD s.dyn ∧ TableInv 19 s.tables.tCl
  | .dynBuild => s.block.btype = 2#2 ∧ s.dyn.lenIdx.toNat = nLl s.dyn + nD s.dyn
  | .symbol =>
    TableInv 288 s.tables.tLl ∧ TableInv 32 s.tables.tD ∧
      (s.block.btype = 2#2 ∨
        (s.block.btype = 1#2 ∧ s.tables.tLl = tableOf 9 fixedLitlenLengths ∧
          s.tables.tD = tableOf 5 fixedDistLengths))
  | .endCheck => s.block.bfinal = 1#1
  | .trailer => s.block.bfinal = 1#1 ∧ s.out.outPos = s.launch.expectedLen
  | .done => True
  | .fault => True

/-- The invariant of the machine between two steps. The register facts are claimed of a running engine only:
at rest the host may have changed the launch parameters, and after a fault nothing is known (10_state R28).
No length is pending in the model's own field `matchLen` (log 6). -/
def Inv (s : State) : Prop :=
  Memory.wf s.launch.inMem ∧ Memory.wf s.out.outMem ∧ Coherent s.control ∧ s.matchLen = none ∧
  (s.control.status = .busy → ReaderInv s.launch s.reader ∧ OutputInv s ∧ PhaseInv s)

/-- `e` more bits can be READ (40 R94). -/
def Readable (s : State) (e : Nat) : Prop :=
  ReaderInv s.launch s.reader ∧ InputPlaced s.launch ∧ s.bitpos + e ≤ 8 * s.launch.inLen.toNat

/-- The input ends before `e` more bits (40 R94, 60 R272). -/
def Exhausted (s : State) (e : Nat) : Prop :=
  ReaderInv s.launch s.reader ∧ InputPlaced s.launch ∧ 8 * s.launch.inLen.toNat < s.bitpos + e

/-- The outcome is the entry of the fault `e` (60 R288): `ERR`, `STATUS` and `PHASE` are set, the launch
parameters stay, and nothing is said of the rest (10_state R28). -/
def Raises (e : ErrCode) (s : State) (o : Outcome) : Prop :=
  ∃ t, o = .next t ∧ t.control = { phase := .fault, status := .fault, err := e } ∧ t.launch = s.launch

/-- The state is one a fault of `s` leads to. -/
def Faulted (s t : State) : Prop := ∃ e, t = takeFault e s

/-- Stored output byte by byte: reading every address outside `lo .. lo + n - 1` gives what it gave before. -/
def MemSameOutside (lo n : Nat) (s t : State) : Prop :=
  ∀ a, a < lo ∨ lo + n ≤ a → memRead t.out.outMem a = memRead s.out.outMem a

/-- The output, read byte by byte, and the checksum are as before. -/
def OutputSame (s t : State) : Prop :=
  (∀ a, memRead t.out.outMem a = memRead s.out.outMem a) ∧ t.out.outPos = s.out.outPos ∧ t.adler = s.adler

/-- The phases after which a run is over, or before it (70 R310). -/
def atRest (p : Phase) : Bool := p == .idle || p == .done || p == .fault

/-- The bit-free phases (46 R246). -/
def bitFree (p : Phase) : Bool := p == .fixedSetup || p == .dynBuild || p == .endCheck

/-- The phase transition table (46 R246); `PH_FAULT` may follow every running phase
but `PH_FIXED_SETUP`, which cannot fault (44 R135). -/
def successors (p : Phase) : List Phase :=
  match p with
  | .idle => [.idle]
  | .zhdr => [.blockHdr, .fault]
  | .blockHdr => [.storedHdr, .fixedSetup, .dynHdr, .fault]
  | .storedHdr => [.storedCopy, .blockHdr, .endCheck, .fault]
  | .storedCopy => [.storedCopy, .blockHdr, .endCheck, .fault]
  | .fixedSetup => [.symbol]
  | .dynHdr => [.dynClen, .fault]
  | .dynClen => [.dynClen, .dynLengths, .fault]
  | .dynLengths => [.dynLengths, .dynBuild, .fault]
  | .dynBuild => [.symbol, .fault]
  | .symbol => [.symbol, .blockHdr, .endCheck, .fault]
  | .endCheck => [.trailer, .fault]
  | .trailer => [.done, .fault]
  | .done => [.done]
  | .fault => [.fault]

/-! ### What an instruction does, in the spec's terms -/

/-- There is room for `k` more bytes (20 R47). -/
def Room (k : Nat) (s : State) : Prop := s.out.outPos.toNat + k ≤ s.launch.expectedLen.toNat

/-- `OUT_APPEND(b)` took place (20 R47): the byte, its neighbours, the position, and the checksum with the new
`ADLER_A` in `ADLER_B`; every other register is as before. -/
def Appended (b : Byte) (s t : State) : Prop :=
  memRead t.out.outMem s.out.outPos.toNat = some b ∧ MemSameOutside s.out.outPos.toNat 1 s t ∧
  t.out.outPos.toNat = s.out.outPos.toNat + 1 ∧
  t.adler.a.toNat = (s.adler.a.toNat + b.toNat) % 65521 ∧
  t.adler.b.toNat = (s.adler.b.toNat + t.adler.a.toNat) % 65521 ∧
  { t with out := s.out, adler := s.adler } = s

/-- The outcome of a literal (45 R161). -/
def LiteralDone (b : Byte) (s : State) (o : Outcome) : Prop :=
  ∃ t, o = .next t ∧ Appended b s t

/-- `PHASE` at the end of a block (43 R123). -/
def afterBlock (s : State) : Phase := if s.block.bfinal = 0#1 then .blockHdr else .endCheck

/-- The outcome of `EOB` (45 R162): only `PHASE` changes. -/
def BlockEnded (s : State) (o : Outcome) : Prop :=
  o = .next { s with control := { s.control with phase := afterBlock s } }

/-- The first half of a match completes (45 R163): the length is `base + READ(e)`; only the bit reader moves. -/
def LengthRead (base e : Nat) (s : State) (o : Outcome) : Prop :=
  ∃ t, o = .next t ∧ t.matchLen.map BitVec.toNat = some (base + fieldAt s.launch s.bitpos e) ∧
    t.reader = readerAt s.launch (s.bitpos + e) ∧ { t with reader := s.reader, matchLen := s.matchLen } = s

/-- The copy of a match (45 R164): `k` bytes, the last `distance` bytes repeated, every other byte as before, each
byte folded into the checksum. -/
def Copied (distance k : Nat) (s t : State) : Prop :=
  (∀ j < k, memRead t.out.outMem (s.out.outPos.toNat + j) =
    memRead s.out.outMem (s.out.outPos.toNat - distance + j % distance)) ∧
  MemSameOutside s.out.outPos.toNat k s t ∧ t.out.outPos.toNat = s.out.outPos.toNat + k ∧
  ∃ bytes : List Byte, bytes.length = k ∧ t.adler = bytes.foldl adlerStep s.adler ∧
    ∀ j < k, bytes[j]? = memRead t.out.outMem (s.out.outPos.toNat + j)

/-- The second half of a match completes (45 R163, R164), with the distance `base + READ(e)`. -/
def MatchDone (base e k : Nat) (s : State) (o : Outcome) : Prop :=
  ∃ t, o = .next t ∧ Copied (base + fieldAt s.launch s.bitpos e) k s t ∧ t.matchLen = none ∧
    t.reader = readerAt s.launch (s.bitpos + e) ∧
    { t with out := s.out, adler := s.adler, reader := s.reader, matchLen := s.matchLen } = s

/-- Every byte below `OUT_POS` has been written (10_state R18). -/
def HistoryWritten (s : State) : Prop :=
  ∀ a < s.out.outPos.toNat, (memRead s.out.outMem a).isSome = true

/-- What a distance symbol with `DBASE` and `DEXT` `base`, `e` does, in the order of its checks (60 R287): the
extra bits run out; the distance is too far (45 R167); the match does not fit (R168); the match is copied. -/
def DistanceRuns (base e : Nat) (s : State) (o : Outcome) : Prop :=
  ∀ k, s.matchLen = some k →
    (Exhausted s e → Raises .inputExhausted s o) ∧
    (Readable s e → s.out.outPos.toNat < base + fieldAt s.launch s.bitpos e → Raises .distTooFar s o) ∧
    (Readable s e → base + fieldAt s.launch s.bitpos e ≤ s.out.outPos.toNat → HistoryWritten s →
      k ≠ 0#9 → ¬ Room k.toNat s → Raises .sizeMismatch s o) ∧
    (Readable s e → base + fieldAt s.launch s.bitpos e ≤ s.out.outPos.toNat → HistoryWritten s →
      Room k.toNat s → MatchDone base e k.toNat s o)

/-- What a length symbol with `LBASE` and `LEXT` `base`, `e` does (45 R163). -/
def LengthRuns (base e : Nat) (s : State) (o : Outcome) : Prop :=
  (Exhausted s e → Raises .inputExhausted s o) ∧ (Readable s e → LengthRead base e s o)

/-- What a literal does (45 R161). -/
def LiteralRuns (b : Byte) (s : State) (o : Outcome) : Prop :=
  (¬ Room 1 s → Raises .sizeMismatch s o) ∧ (Room 1 s → LiteralDone b s o)

/-- A run of `rep` lengths `v` is appended to `LENGTHS` (44 R145 to R148, R144): these entries and no other
change, `LEN_IDX` counts them, and at `N_LL + N_D` the tables are built next; every other register but the bit
reader is as before. -/
def LengthsAppended (v : BitVec 4) (rep : Nat) (s t : State) : Prop :=
  (∀ j < 320, t.dyn.lengths.getD j 0#4 =
    if s.dyn.lenIdx.toNat ≤ j ∧ j < s.dyn.lenIdx.toNat + rep then v else s.dyn.lengths.getD j 0#4) ∧
  t.dyn.lenIdx.toNat = s.dyn.lenIdx.toNat + rep ∧
  t.control.phase =
    (if s.dyn.lenIdx.toNat + rep = nLl s.dyn + nD s.dyn then .dynBuild else s.control.phase) ∧
  { t with
    dyn := { t.dyn with lengths := s.dyn.lengths, lenIdx := s.dyn.lenIdx }
    control := { t.control with phase := s.control.phase }
    reader := s.reader } = s

/-- What a repeat does (44 R146 to R149): the count is `base + READ(e)`; past `N_LL + N_D` it is a fault. -/
def RepeatRuns (v : BitVec 4) (base e : Nat) (s : State) (o : Outcome) : Prop :=
  (Exhausted s e → Raises .inputExhausted s o) ∧
  (Readable s e → nLl s.dyn + nD s.dyn < s.dyn.lenIdx.toNat + (base + fieldAt s.launch s.bitpos e) →
    Raises .repeatOverflow s o) ∧
  (Readable s e → s.dyn.lenIdx.toNat + (base + fieldAt s.launch s.bitpos e) ≤ nLl s.dyn + nD s.dyn →
    ∃ t, o = .next t ∧ LengthsAppended v (base + fieldAt s.launch s.bitpos e) s t ∧
      t.reader = readerAt s.launch (s.bitpos + e))

/-! ### What each instruction may write (10_state R13) -/

/-- The instruction appends to the output (20 R47): a stored byte, a literal, a match's distance half. -/
def appends (i : Instr) : Bool :=
  match shape i with
  | .word p _ => p == .storedCopy
  | .clSym _ => false
  | .llSym sym => decide (sym.toNat < 256)
  | .dSym sym => decide (sym.toNat < 30)
  | .fixedLl _ _ sym => decide (sym.toNat < 256)
  | .fixedD sym => decide (sym.toNat < 30)

/-- How many bytes it appends: one, or the length of the pending match. -/
def appendCount (i : Instr) (s : State) : Nat :=
  match shape i with
  | .word _ _ => 1
  | .clSym _ => 0
  | .llSym _ => 1
  | .dSym _ => (s.matchLen.map BitVec.toNat).getD 0
  | .fixedLl _ _ _ => 1
  | .fixedD _ => (s.matchLen.map BitVec.toNat).getD 0

/-- The instruction READs extra bits (30 R66). -/
def readsExtra (i : Instr) : Bool :=
  match shape i with
  | .word _ _ => false
  | .clSym sym => decide (16 ≤ sym.toNat)
  | .llSym sym => decide (257 ≤ sym.toNat)
  | .dSym _ => true
  | .fixedLl _ _ sym => decide (257 ≤ sym.toNat)
  | .fixedD _ => true

/-- The instruction is one half of a match, or a reserved symbol in its place. -/
def isMatchHalf (i : Instr) : Bool :=
  match shape i with
  | .word _ _ => false
  | .clSym _ => false
  | .llSym sym => decide (257 ≤ sym.toNat)
  | .dSym _ => true
  | .fixedLl _ _ sym => decide (257 ≤ sym.toNat)
  | .fixedD _ => true

/-- The phase of a fixed-width element; none for a Huffman-coded symbol. -/
def wordPhase (i : Instr) : Option Phase :=
  match shape i with
  | .word p _ => some p
  | .clSym _ => none
  | .llSym _ => none
  | .dSym _ => none
  | .fixedLl _ _ _ => none
  | .fixedD _ => none

/-- The instruction is a symbol of the code-length alphabet. -/
def isClSymbol (i : Instr) : Bool :=
  match shape i with
  | .word _ _ => false
  | .clSym _ => true
  | .llSym _ => false
  | .dSym _ => false
  | .fixedLl _ _ _ => false
  | .fixedD _ => false

end Sys2Proof.Machine
end

