-- ==== Sys2Proof/Certificates/Slice0/Obligations.lean ====
section
/-! DEFINITION. The statements for the provers. Each is about the machine; the rules of spec/ it rests on stand in
its docstring and in OBLIGATIONS.json. -/

open Sys2Proof Sys2Proof.Machine Sys2Proof.Abstract

/-! ### Encoding and decoding -/

/-- A few words written out bit by bit from 30_encoding (R61 to R65, R71, R72) and from the listings of 43 and
46 decode to the elements they spell. -/
def Obligations.DecodeWords : Prop :=
  decode { idleCtx with phase := .zhdr } [0x78#8, 0x01#8] = .ok (.zhdr 8 7 1 0 0, 16) ∧
  decode { idleCtx with phase := .blockHdr } [0x01#8] = .ok (.blockStored 1, 3) ∧
  decode { idleCtx with phase := .blockHdr } [0x4B#8] = .ok (.blockFixed 1, 3) ∧
  decode { idleCtx with phase := .storedHdr } [0x05#8, 0x00#8, 0xFA#8, 0xFF#8] =
    .ok (.storedHdr 5 0xFFFA, 32) ∧
  decode { idleCtx with phase := .dynHdr } [0x21#8, 0x38#8] = .ok (.dynHdr 1 1 14, 14) ∧
  decode { idleCtx with phase := .dynClen } [0x05#8] = .ok (.clen 5, 3) ∧
  decode { idleCtx with phase := .trailer } [0x05#8, 0x8C#8, 0x01#8, 0xF5#8] =
    .ok (.adler32 0x05 0x8C 0x01 0xF5, 32) ∧
  decode { idleCtx with phase := .symbol, btype := 1#2, tLl := tableOf 9 fixedLitlenLengths }
    [0x89#8] = .ok (.fixedLl80To143 17, 8) ∧
  decode { idleCtx with phase := .symbol, btype := 1#2, matchPending := true, tD := tableOf 5 fixedDistLengths }
    [0x08#8] = .ok (.fixedD0To31 2, 5) ∧
  decode { idleCtx with phase := .symbol, btype := 2#2, tLl := tableOf 9 fixedLitlenLengths }
    [0x10#8] = .ok (.len260, 7)

/-- Decoding what the encoder writes gives the instruction back, with all its operands and the number of bits it
takes, in every context that admits it (30 R61 to R66, R71, R72, R77; 41 R103; 42 R111). -/
def Obligations.EncodeThenDecode : Prop :=
  ∀ (c : DecodeCtx) (i : Instr), wellFormed c i = true →
    decode c (encode c i) = .ok (i, (encodeBits c i).length)

/-- What the decoder reads is well formed, and the encoder writes the very bits it was read from: each word has one
reading. The tables hold each symbol once (I-HT), and a fixed block uses the fixed tables (44 R135). -/
def Obligations.DecodeThenEncode : Prop :=
  ∀ (c : DecodeCtx) (bytes : List Byte) (i : Instr) (n : Nat),
    c.tCl.symbols.Nodup → c.tLl.symbols.Nodup → c.tD.symbols.Nodup →
    (c.phase = .symbol → c.btype = 1#2 →
      c.tLl = tableOf 9 fixedLitlenLengths ∧ c.tD = tableOf 5 fixedDistLengths) →
    decode c bytes = .ok (i, n) →
    wellFormed c i = true ∧ encodeBits c i = (bitsOfBytes bytes).take n

/-- The canonical code of R103 is what DECODE inverts: on the bits of `code(s)`, most significant first, DECODE
returns `s` and takes `L[s]` bits (41 R103, 42 R111, 20 R44). -/
def Obligations.CanonicalCodeDecodes : Prop :=
  ∀ (w : Nat) (L : List Nat) (s l : Nat), L.length ≤ 2 ^ w → L.length ≤ 320 → (∀ x ∈ L, x ≤ 15) →
    L[s]? = some l → l ≠ 0 → canonicalCode L s < 2 ^ l →
    codeOf (tableOf w L) (BitVec.ofNat w s) = some (l, canonicalCode L s) ∧
    ∀ (pos : Nat) (rest : List Bool),
      (decodeProg (tableOf w L)).runBits pos (codeWordBits l (canonicalCode L s) ++ rest) =
        .ok (BitVec.ofNat w s, pos + l)

/-- DECODE on any table that BUILD leaves, valid code or not (42 R113, 41 R107): a symbol below `n`, used, after as
many bits as its length; or an overrun after 15 bits, which a complete code cannot have; or the input ends; never an
entry that holds no value. -/
def Obligations.DecodeTotal : Prop :=
  ∀ (w : Nat) (strict : Bool) (L : List Nat) (T : HuffTable w) (pos : Nat) (bits : List Bool),
    L.length ≤ 2 ^ w → L.length ≤ 320 → buildTable w strict L = some T →
    match (decodeProg T).runBits pos bits with
    | .ok (sym, p) => ∃ l, L[sym.toNat]? = some l ∧ 1 ≤ l ∧ l ≤ 15 ∧ p = pos + l
    | .error .huffmanOverrun => 15 ≤ bits.length ∧ kraftSum L < 2 ^ 15
    | .error .inputExhausted => bits.length < 15
    | .error .symbolEntryAbsent => False
    | .error .symbolOutsideAlphabet => False
    | .error .noElement => False

/-- The code words of a fixed block (30 R71, R72). -/
def Obligations.FixedCodeWords : Prop :=
  (∀ s < 288, codeOf (tableOf 9 fixedLitlenLengths) (BitVec.ofNat 9 s) =
    some (if s < 144 then (8, 48 + s) else if s < 256 then (9, 400 + (s - 144))
      else if s < 280 then (7, s - 256) else (8, 192 + (s - 280)))) ∧
  ∀ s < 32, codeOf (tableOf 5 fixedDistLengths) (BitVec.ofNat 5 s) = some (5, s)

/-- BUILD leaves what the counting sort of R101 computes: the counts, `NSYM` and the order of `SYMBOLS`. -/
def Obligations.BuildIsCountingSort : Prop :=
  ∀ (w : Nat) (strict : Bool) (L : List Nat) (T : HuffTable w),
    L.length ≤ 2 ^ w → L.length ≤ 320 → buildTable w strict L = some T →
    (∀ l ≤ 15, lengthCount T l = countOf L l) ∧ T.nsym.toNat = offsetOf L 16 ∧
      T.symbols.map BitVec.toNat = countingSort L

/-- When BUILD fails (41 R102, R104): on a length above 15, and, only when strict, when the Kraft sum exceeds 1. -/
def Obligations.BuildFailsExactlyWhenOverSubscribed : Prop :=
  ∀ (w : Nat) (strict : Bool) (L : List Nat), L.length ≤ 320 →
    (buildTable w strict L = none ↔
      (∃ x ∈ L, 15 < x) ∨ (strict = true ∧ 2 ^ 15 < kraftSum L))

/-- The base and extra-bits tables obey their law and their stated extremes (30 R70, R75, R76). -/
def Obligations.OperandTablesAreContiguous : Prop :=
  lbase.length = 29 ∧ lext.length = 29 ∧ dbase.length = 30 ∧ dext.length = 30 ∧
  (∀ i < 27, lbase.getD (i + 1) 0 = lbase.getD i 0 + 2 ^ lext.getD i 0) ∧ lbase[28]? = some 258 ∧
  (∀ i < 29, dbase.getD (i + 1) 0 = dbase.getD i 0 + 2 ^ dext.getD i 0) ∧
  lbase[0]? = some 3 ∧ dbase[0]? = some 1 ∧ dbase.getD 29 0 + (2 ^ dext.getD 29 0 - 1) = 32768

/-! ### The bit reader -/

/-- READ agrees with the abstract view (40 R91, R94): its value is the next `n` stream bits, least significant first,
the registers are those of `bitpos + n`; it faults exactly when fewer than `n` bits are left. -/
def Obligations.ReadFollowsTheStream : Prop :=
  ∀ (s : State) (n : Nat), n ≤ 32 →
    (Readable s n → readBits s.launch n s.reader =
      .ok (fieldAt s.launch s.bitpos n, readerAt s.launch (s.bitpos + n))) ∧
    (Exhausted s n → readBits s.launch n s.reader = .error (.raise .inputExhausted))

/-- `READ(0)` returns 0, changes nothing and cannot fault, in any state of the registers (40 R92). -/
def Obligations.ReadZeroDoesNothing : Prop :=
  ∀ (l : Launch) (r : BitReader), readBits l 0 r = .ok (0, r)

/-- ALIGN goes to the next multiple of 8, or nowhere from one (40 R93, R94). -/
def Obligations.AlignGoesToTheByteBoundary : Prop :=
  ∀ s : State, ReaderInv s.launch s.reader →
    alignReader s.reader = readerAt s.launch (alignedPos s.bitpos)

/-- Fetching over the registers reads what the decoder reads from the stream bits at `bitpos`, and leaves the bit
reader where the decoder stops (30 R79, 40 R94). -/
def Obligations.FetchDecodesTheStream : Prop :=
  ∀ s : State, ReaderInv s.launch s.reader → InputPlaced s.launch →
    fetch s =
      match (elementProg s.ctx).runBits s.bitpos (streamFrom s.launch s.bitpos) with
      | .ok (i, p) => .ok (i, s.setReader (readerAt s.launch p))
      | .error e => .error (stopOf e)

/-- A fixed-width element whose bits the input does not have raises ERR_INPUT_EXHAUSTED; the bits an ALIGN drops
are not counted (60 R272; 46 R241, R248; 43 R120, R125, R127; 44 R140, R142). -/
def Obligations.TruncatedElementFaults : Prop :=
  ∀ s : State, ReaderInv s.launch s.reader → InputPlaced s.launch →
    (∀ p n, (p, n) ∈ [(Phase.zhdr, 16), (.blockHdr, 3), (.storedCopy, 8), (.dynHdr, 14), (.dynClen, 3)] →
      s.control.phase = p → 8 * s.launch.inLen.toNat < s.bitpos + n →
      Raises .inputExhausted s (step s)) ∧
    (s.control.phase = .storedHdr ∨ s.control.phase = .trailer →
      8 * s.launch.inLen.toNat < alignedPos s.bitpos + 32 → Raises .inputExhausted s (step s))

/-- With an empty table DECODE always overruns after 15 bits, if the input has them (42 R112): whatever the table's
width and the bits; and so in a step, with an empty `T_CL` where a code length is due, with an empty `T_LL` where
a literal/length symbol is due, and with an empty `T_D` where the distance symbol of a match is due. That the match's
length is held between its halves is the model's form (log 6). -/
def Obligations.EmptyTableOverruns : Prop :=
  (∀ (w pos : Nat) (bits : List Bool), (decodeProg (emptyTable w)).runBits pos bits =
    if 15 ≤ bits.length then .error .huffmanOverrun else .error .inputExhausted) ∧
  (∀ s : State, s.control.phase = .dynLengths → s.tables.tCl = emptyTable 5 → Readable s 15 →
    Raises .huffmanOverrun s (step s)) ∧
  (∀ s : State, s.control.phase = .symbol → s.matchLen = none → s.tables.tLl = emptyTable 9 → Readable s 15 →
    Raises .huffmanOverrun s (step s)) ∧
  ∀ (s s' t : State) (i : Instr), s.control.phase = .symbol → s.matchLen = none → fetch s = .ok (i, s') →
    exec i s' = .next t → t.matchLen.isSome = true → t.tables.tD = emptyTable 5 → Readable t 15 →
    Raises .huffmanOverrun s (step s)

/-! ### The step -/

/-- A step runs the decoded element: in a phase that executes an element, step is exec of the fetched element at the
state with the bit reader moved past it. A length symbol's next state is not the step's: the distance symbol that
follows is fetched there and executed in the same step (45 R163). A fault of the fetch is taken (60 R288).
Two parts are the MODEL's, not the spec's: the state between the halves of a match, with the pending length (log 6),
and the stops of exec, which are the step's own (the last clause on exec; log 4, log 5, log 12). -/
def Obligations.StepRunsTheDecodedElement : Prop :=
  ∀ s : State, atRest s.control.phase = false → bitFree s.control.phase = false →
    (∀ i s', fetch s = .ok (i, s') →
      (∀ t, exec i s' = .next t → (s.matchLen.isSome = true ∨ t.matchLen = none) → step s = .next t) ∧
      (∀ t j t', s.matchLen = none → exec i s' = .next t → t.matchLen.isSome = true →
        fetch t = .ok (j, t') → step s = exec j t') ∧
      (∀ t e, s.matchLen = none → exec i s' = .next t → t.matchLen.isSome = true →
        fetch t = .error (.raise e) → step s = .next (takeFault e t)) ∧
      ∀ f, exec i s' = .fault f → step s = .fault f) ∧
    ∀ e, fetch s = .error (.raise e) → step s = .next (takeFault e s)

/-- In `PH_DONE` and `PH_FAULT` a step changes nothing (70 R310). -/
def Obligations.NothingExecutesAfterTheEnd : Prop :=
  ∀ s : State, s.control.phase = .done ∨ s.control.phase = .fault → step s = .next s

/-- Fault entry (60 R288): `ERR`, `STATUS` and `PHASE` are set, together and whatever the state was. -/
def Obligations.FaultEntrySetsErrStatusPhase : Prop :=
  ∀ (e : ErrCode) (s : State), Raises e s (settle s (.error (.raise e)))

/-! ### Reset, START and the host -/

/-- Hardware reset, from any state, leaves the values R27 gives (70 R300). -/
def Obligations.ResetValues : Prop :=
  ∀ s r : State, (r = State.reset ∨ r = hardwareReset s) →
    r.control = { phase := .idle, status := .idle, err := .none } ∧ r.launch.cfg = 0#2 ∧
    r.reader = { bytePos := 0#32, bitBuf := 0#64, bitCount := 0#6 } ∧ r.out.outPos = 0#32 ∧
    r.adler = { a := 1#16, b := 0#16 } ∧ r.block.bfinal = 0#1

/-- START while not BUSY, thus from `IDLE`, `DONE` and `FAULT` alike, sets what R240 lists and leaves the launch
parameters; nothing of the previous run survives: the state after it is the same for any two states with the same
launch parameters (and the same number of draws of free values, the model's own counter, log 10). While BUSY it has no
effect (46 R240). Writing 0 has none at any time (the `CTRL` row of 10_state R17). -/
def Obligations.StartBeginsARun : Prop :=
  ∀ (s : State) (v : BitVec 32),
    (s.control.status ≠ .busy → v.getLsbD 0 = true → ∃ t, hostWrite .ctrl v s = .next t ∧
      t.control = { phase := .zhdr, status := .busy, err := .none } ∧
      t.reader = { bytePos := 0#32, bitBuf := 0#64, bitCount := 0#6 } ∧ t.out.outPos = 0#32 ∧
      t.adler = { a := 1#16, b := 0#16 } ∧ t.block.bfinal = 0#1 ∧ t.launch = s.launch ∧
      ∀ s' : State, s'.control.status ≠ .busy → s'.launch = s.launch → s'.freeCount = s.freeCount →
        hostWrite .ctrl v s' = .next t) ∧
    (s.control.status = .busy ∨ v.getLsbD 0 = false → hostWrite .ctrl v s = .next s)

/-- The host's other writes (10_state R17): while not BUSY they set their register and nothing else. -/
def Obligations.HostWritesSetTheirRegister : Prop :=
  ∀ (s : State) (v : BitVec 32), s.control.status ≠ .busy →
    hostWrite .inLen v s = .next { s with launch := { s.launch with inLen := v } } ∧
    hostWrite .expectedLen v s = .next { s with launch := { s.launch with expectedLen := v } } ∧
    hostWrite .cfg v s = .next { s with launch := { s.launch with cfg := v.setWidth 2 } } ∧
    ∀ (a : Addr) (b : Byte), ∃ t, hostWriteIn a b s = .next t ∧ memRead t.launch.inMem a.toNat = some b ∧
      (∀ a', a' ≠ a.toNat → memRead t.launch.inMem a' = memRead s.launch.inMem a') ∧
      { t with launch := { t.launch with inMem := s.launch.inMem } } = s

/-- What the host reads (10_state R17, R28): `STATUS` and `ERR` at any time, with their codes, `CTRL` as 0; when
`DONE`, `OUT_LEN`, `IN_CONSUMED` and the bytes written. -/
def Obligations.HostReadsTheViews : Prop :=
  ∀ s : State,
    (∃ v, hostRead .status s = .next (v, s) ∧
      [Status.idle, .busy, .done, .fault][v.toNat]? = some s.control.status) ∧
    (∃ v, hostRead .err s = .next (v, s) ∧
      [ErrCode.none, .inputExhausted, .zlibMethod, .zlibFcheck, .zlibFdict, .btypeReserved, .storedNlen,
        .codeLengths, .repeatNoPrev, .repeatOverflow, .huffmanOverrun, .litlenSymbol, .distSymbol,
        .distTooFar, .sizeMismatch, .adlerMismatch][v.toNat]? = some s.control.err) ∧
    hostRead .ctrl s = .next (0#32, s) ∧
    (s.control.status = .done → hostRead .outLen s = .next (s.out.outPos, s) ∧
      hostRead .inConsumed s = .next (s.reader.bytePos, s) ∧
      ∀ (a : Addr) (b : Byte), a.toNat < s.launch.expectedLen.toNat →
        memRead s.out.outMem a.toNat = some b → hostReadOut a s = .next (b, s))

/-- The host's operations keep the invariant: START begins a run that has it, and a write that is accepted does not
break it (46 R240, 10_state R17, 70 R300). -/
def Obligations.HostOperationsKeepTheInvariant : Prop :=
  ∀ s : State, Inv s → Inv (hardwareReset s) ∧
    (∀ (r : HostReg) (v : BitVec 32) (t : State), hostWrite r v s = .next t → Inv t) ∧
    (∀ (a : Addr) (b : Byte) (t : State), hostWriteIn a b s = .next t ∨ hostWriteOut a b s = .next t → Inv t) ∧
    (∀ (r : HostReg) (v : BitVec 32) (t : State), hostRead r s = .next (v, t) → Inv t) ∧
    ∀ (a : Addr) (b : Byte) (t : State), hostReadOut a s = .next (b, t) → Inv t

/-! ### What the instructions do -/

/-- `ZHDR` (46 R241 to R245): the three checks in order, then `PH_BLOCK_HDR` and nothing else; `CINFO` and `FLEVEL`
enter the header check only. -/
def Obligations.ZlibHeaderChecks : Prop :=
  ∀ (cm cinfo : BitVec 4) (fcheck : BitVec 5) (fdict : BitVec 1) (flevel : BitVec 2) (s : State) (cmf flg : Nat),
    cmf = cm.toNat + 16 * cinfo.toNat → flg = fcheck.toNat + 32 * fdict.toNat + 64 * flevel.toNat →
    (cm ≠ 8#4 → Raises .zlibMethod s (exec (.zhdr cm cinfo fcheck fdict flevel) s)) ∧
    (cm = 8#4 → (256 * cmf + flg) % 31 ≠ 0 →
      Raises .zlibFcheck s (exec (.zhdr cm cinfo fcheck fdict flevel) s)) ∧
    (cm = 8#4 → (256 * cmf + flg) % 31 = 0 → fdict = 1#1 →
      Raises .zlibFdict s (exec (.zhdr cm cinfo fcheck fdict flevel) s)) ∧
    (cm = 8#4 → (256 * cmf + flg) % 31 = 0 → fdict = 0#1 →
      exec (.zhdr cm cinfo fcheck fdict flevel) s =
        .next { s with control := { s.control with phase := .blockHdr } })

/-- `BLOCK` (43 R120, R122): the header is latched and the phase chosen by the type; type 3 is a fault, whatever
`BFINAL` is. -/
def Obligations.BlockHeaderSelectsTheBody : Prop :=
  ∀ (f : BitVec 1) (s : State),
    exec (.blockStored f) s = .next { s with
      block := { s.block with bfinal := f, btype := 0#2 }
      control := { s.control with phase := .storedHdr } } ∧
    exec (.blockFixed f) s = .next { s with
      block := { s.block with bfinal := f, btype := 1#2 }
      control := { s.control with phase := .fixedSetup } } ∧
    exec (.blockDynamic f) s = .next { s with
      block := { s.block with bfinal := f, btype := 2#2 }
      control := { s.control with phase := .dynHdr } } ∧
    Raises .btypeReserved s (exec (.blockReserved f) s)

/-- `STORED_HDR` (43 R125, R126): strict, a wrong `NLEN` is a fault; else the fields are latched, `COPY_REM` is `LEN`,
and an empty block ends at once (R123). -/
def Obligations.StoredHeaderLatchesLengths : Prop :=
  ∀ (len nlen : BitVec 16) (s : State),
    (s.launch.cfg.getLsbD 0 = true → len.toNat + nlen.toNat ≠ 65535 →
      Raises .storedNlen s (exec (.storedHdr len nlen) s)) ∧
    (s.launch.cfg.getLsbD 0 = false ∨ len.toNat + nlen.toNat = 65535 →
      exec (.storedHdr len nlen) s = .next { s with
        block := { s.block with len := len, nlen := nlen, copyRem := len }
        control := { s.control with phase := if len = 0#16 then afterBlock s else .storedCopy } })

/-- `STORED_BYTE` (43 R127): the byte is appended, `COPY_REM` counts down, and at 0 the block ends (R123); a full
output is a fault. -/
def Obligations.StoredByteIsAppended : Prop :=
  ∀ (b : BitVec 8) (s : State), s.block.copyRem ≠ 0#16 →
    (¬ Room 1 s → Raises .sizeMismatch s (exec (.storedByte b) s)) ∧
    (Room 1 s → ∃ t, exec (.storedByte b) s = .next t ∧
      t.block.copyRem.toNat = s.block.copyRem.toNat - 1 ∧
      t.control.phase = (if s.block.copyRem = 1#16 then afterBlock s else s.control.phase) ∧
      Appended b s { t with
        block := { t.block with copyRem := s.block.copyRem }
        control := { t.control with phase := s.control.phase } })

/-- `DYN_HDR` (44 R140, R141): the three counts are latched without a range check, the 19 code-length lengths are
cleared. -/
def Obligations.DynamicHeaderLatchesCounts : Prop :=
  ∀ (hlit hdist : BitVec 5) (hclen : BitVec 4) (s : State), ∃ t,
    exec (.dynHdr hlit hdist hclen) s = .next t ∧
    t.dyn.hlit = hlit ∧ t.dyn.hdist = hdist ∧ t.dyn.hclen = hclen ∧ t.dyn.clIdx = 0#5 ∧
    (∀ i < 19, t.dyn.clLengths[i]? = some 0#3) ∧ t.control.phase = .dynClen ∧
    t.dyn.lengths = s.dyn.lengths ∧ t.dyn.lenIdx = s.dyn.lenIdx ∧
    { t with dyn := s.dyn, control := { t.control with phase := s.control.phase } } = s

/-- `CLEN` (44 R142, R143): the field goes to the next symbol of `CL_ORDER`; the last one builds `T_CL` over all 19
lengths, which is a fault when strict and over-subscribed. -/
def Obligations.CodeLengthFieldIsPlaced : Prop :=
  ∀ (v : BitVec 3) (s : State) (sym : Nat) (ls : Vector (BitVec 3) 19),
    s.dyn.clIdx.toNat < nCode s.dyn → clOrder[s.dyn.clIdx.toNat]? = some sym →
    (∀ j < 19, ls[j]? = if j = sym then some v else s.dyn.clLengths[j]?) →
    (s.dyn.clIdx.toNat + 1 < nCode s.dyn →
      exec (.clen v) s =
        .next { s with dyn := { s.dyn with clLengths := ls, clIdx := s.dyn.clIdx + 1#5 } }) ∧
    (s.dyn.clIdx.toNat + 1 = nCode s.dyn →
      (s.launch.cfg.getLsbD 1 = true → 2 ^ 15 < kraftSum (ls.toList.map BitVec.toNat) →
        Raises .codeLengths s (exec (.clen v) s)) ∧
      (s.launch.cfg.getLsbD 1 = false ∨ kraftSum (ls.toList.map BitVec.toNat) ≤ 2 ^ 15 →
        exec (.clen v) s = .next { s with
          dyn := { s.dyn with clLengths := ls, clIdx := s.dyn.clIdx + 1#5, lenIdx := 0#9 }
          tables := { s.tables with tCl := tableOf 5 (ls.toList.map BitVec.toNat) }
          control := { s.control with phase := .dynLengths } }))

/-- `CL_LEN v` (44 R145): one length. -/
def Obligations.CodeLengthIsAppended : Prop :=
  ∀ (v : BitVec 4) (s : State), s.dyn.lenIdx.toNat < nLl s.dyn + nD s.dyn →
    ∃ t, exec (.clLen v) s = .next t ∧ LengthsAppended v 1 s t ∧ t.reader = s.reader

/-- `CL_16` (44 R146, R149): with no previous length a fault, before the extra bits are read; else the previous length
3 to 6 times. -/
def Obligations.RepeatPreviousLength : Prop :=
  ∀ s : State,
    (s.dyn.lenIdx = 0#9 → Raises .repeatNoPrev s (exec .cl16 s)) ∧
    ∀ v, s.dyn.lenIdx ≠ 0#9 → s.dyn.lengths[s.dyn.lenIdx.toNat - 1]? = some v →
      RepeatRuns v 3 2 s (exec .cl16 s)

/-- `CL_17` and `CL_18` (44 R147, R148, R149): 3 to 10, and 11 to 138, zero lengths. -/
def Obligations.RepeatZeroLength : Prop :=
  ∀ s : State, RepeatRuns 0#4 3 3 s (exec .cl17 s) ∧ RepeatRuns 0#4 11 7 s (exec .cl18 s)

/-- `LIT b` (45 R161). -/
def Obligations.LiteralIsAppended : Prop :=
  ∀ (b : BitVec 8) (s : State), LiteralRuns b s (exec (.lit b) s)

/-- `EOB` (45 R162, 43 R123). -/
def Obligations.EndOfBlockSelectsNextPhase : Prop :=
  ∀ s : State, BlockEnded s (exec .eob s)

/-- `LEN257` to `LEN285` (45 R163, R170 to R198; 30 R75): the length is `LBASE + READ(LEXT)`; where it is held until
the distance symbol is the model's choice (log 6). -/
def Obligations.LengthSymbolsReadTheLength : Prop :=
  ∀ (k : Nat) (i : Instr) (base e : Nat) (s : State),
    [Instr.len257, .len258, .len259, .len260, .len261, .len262, .len263, .len264, .len265, .len266, .len267,
      .len268, .len269, .len270, .len271, .len272, .len273, .len274, .len275, .len276, .len277, .len278,
      .len279, .len280, .len281, .len282, .len283, .len284, .len285][k]? = some i →
    lbase[k]? = some base → lext[k]? = some e → LengthRuns base e s (exec i s)

/-- `DIST0` to `DIST29` after a length symbol (45 R163, R164, R167, R168, R200 to R229; 30 R76; 60 R287). That the
length stands in a field until then, and is cleared, is the model's choice (log 6). -/
def Obligations.DistanceSymbolsCopyTheMatch : Prop :=
  ∀ (k : Nat) (i : Instr) (base e : Nat) (s : State),
    [Instr.dist0, .dist1, .dist2, .dist3, .dist4, .dist5, .dist6, .dist7, .dist8, .dist9, .dist10, .dist11,
      .dist12, .dist13, .dist14, .dist15, .dist16, .dist17, .dist18, .dist19, .dist20, .dist21, .dist22,
      .dist23, .dist24, .dist25, .dist26, .dist27, .dist28, .dist29][k]? = some i →
    dbase[k]? = some base → dext[k]? = some e → DistanceRuns base e s (exec i s)

/-- The symbols without a meaning are faults, at once (45 R165, R166). -/
def Obligations.ReservedSymbolsFault : Prop :=
  ∀ s : State, Raises .litlenSymbol s (exec .litlen286Reserved s) ∧
    Raises .litlenSymbol s (exec .litlen287Reserved s) ∧ Raises .distSymbol s (exec .dist30Reserved s) ∧
    Raises .distSymbol s (exec .dist31Reserved s)

/-- The literal rows of the fixed code (30 R71, R81): the literal is `first_symbol + x`. -/
def Obligations.FixedLiteralRows : Prop :=
  ∀ s : State,
    (∀ x : BitVec 4, LiteralRuns (BitVec.ofNat 8 x.toNat) s (exec (.fixedLl0To15 x) s)) ∧
    (∀ x : BitVec 6, LiteralRuns (BitVec.ofNat 8 (16 + x.toNat)) s (exec (.fixedLl16To79 x) s)) ∧
    (∀ x : BitVec 6, LiteralRuns (BitVec.ofNat 8 (80 + x.toNat)) s (exec (.fixedLl80To143 x) s)) ∧
    (∀ x : BitVec 4, LiteralRuns (BitVec.ofNat 8 (144 + x.toNat)) s (exec (.fixedLl144To159 x) s)) ∧
    (∀ x : BitVec 5, LiteralRuns (BitVec.ofNat 8 (160 + x.toNat)) s (exec (.fixedLl160To191 x) s)) ∧
    ∀ x : BitVec 6, LiteralRuns (BitVec.ofNat 8 (192 + x.toNat)) s (exec (.fixedLl192To255 x) s)

/-- The other rows of the fixed literal/length code (30 R71, R75, R81): `EOB`, the length symbols, and the two
reserved symbols. That a length symbol alone answers a state, which holds the pending length, is the model's choice
(log 6): in the spec the length symbol alone is no element (45 R163). -/
def Obligations.FixedEndAndLengthRows : Prop :=
  ∀ s : State,
    BlockEnded s (exec (.fixedLl256To271 0) s) ∧
    (∀ (x : BitVec 4) (base e : Nat), x ≠ 0#4 → lbase[x.toNat - 1]? = some base → lext[x.toNat - 1]? = some e →
      LengthRuns base e s (exec (.fixedLl256To271 x) s)) ∧
    (∀ (x : BitVec 3) (base e : Nat), lbase[15 + x.toNat]? = some base → lext[15 + x.toNat]? = some e →
      LengthRuns base e s (exec (.fixedLl272To279 x) s)) ∧
    (∀ (x : BitVec 3) (base e : Nat), lbase[23 + x.toNat]? = some base → lext[23 + x.toNat]? = some e →
      LengthRuns base e s (exec (.fixedLl280To287 x) s)) ∧
    ∀ x : BitVec 3, 6 ≤ x.toNat → Raises .litlenSymbol s (exec (.fixedLl280To287 x) s)

/-- The row of the fixed distance code (30 R72, R76, R81; 45 R163, R164, R166 to R168). That the match's length stands
in a field until then, and is cleared, is the model's choice (log 6). -/
def Obligations.FixedDistanceRow : Prop :=
  ∀ (s : State) (x : BitVec 5),
    (∀ base e, dbase[x.toNat]? = some base → dext[x.toNat]? = some e →
      DistanceRuns base e s (exec (.fixedD0To31 x) s)) ∧
    (30 ≤ x.toNat → Raises .distSymbol s (exec (.fixedD0To31 x) s))

/-- `ADLER32` (46 R248, R249): the big-endian number of the four bytes against the checksum; equal, the run is done and
nothing else changes. -/
def Obligations.TrailerEndsTheRun : Prop :=
  ∀ (b0 b1 b2 b3 : BitVec 8) (s : State) (t : Nat),
    t = ((b0.toNat * 256 + b1.toNat) * 256 + b2.toNat) * 256 + b3.toNat →
    (t ≠ s.adler.b.toNat * 65536 + s.adler.a.toNat → Raises .adlerMismatch s (exec (.adler32 b0 b1 b2 b3) s)) ∧
    (t = s.adler.b.toNat * 65536 + s.adler.a.toNat → exec (.adler32 b0 b1 b2 b3) s =
      .next { s with control := { s.control with phase := .done, status := .done } })

/-- The fixed tables (44 R135): whatever `CFG` says, the step leaves the listed tables and cannot fault. -/
def Obligations.FixedSetupBuildsTheFixedTables : Prop :=
  ∀ s : State, s.control.phase = .fixedSetup → ∃ t, step s = .next t ∧
    t.control = { s.control with phase := .symbol } ∧
    t.tables.tLl.counts.toList.map BitVec.toNat = [0, 0, 0, 0, 0, 0, 0, 24, 152, 112, 0, 0, 0, 0, 0, 0] ∧
    t.tables.tLl.nsym = 288#9 ∧
    t.tables.tLl.symbols.map BitVec.toNat =
      List.range' 256 24 ++ List.range' 0 144 ++ List.range' 280 8 ++ List.range' 144 112 ∧
    t.tables.tD.counts.toList.map BitVec.toNat = [0, 0, 0, 0, 0, 32, 0, 0, 0, 0, 0, 0, 0, 0, 0, 0] ∧
    t.tables.tD.nsym = 32#9 ∧ t.tables.tD.symbols.map BitVec.toNat = List.range 32 ∧
    { t with tables := { t.tables with tLl := s.tables.tLl, tD := s.tables.tD }, control := s.control } = s

/-- The dynamic block's tables (44 R150, R151): the lengths are split at `N_LL`; strict, an over-subscribed part is a
fault. -/
def Obligations.DynamicBuildSplitsTheLengths : Prop :=
  ∀ (s : State) (ll d : List Nat), s.control.phase = .dynBuild →
    ll = (List.range (nLl s.dyn)).map (fun j => (s.dyn.lengths.getD j 0#4).toNat) →
    d = (List.range (nD s.dyn)).map (fun j => (s.dyn.lengths.getD (nLl s.dyn + j) 0#4).toNat) →
    (s.launch.cfg.getLsbD 1 = true → 2 ^ 15 < kraftSum ll ∨ 2 ^ 15 < kraftSum d →
      Raises .codeLengths s (step s)) ∧
    (s.launch.cfg.getLsbD 1 = false ∨ (kraftSum ll ≤ 2 ^ 15 ∧ kraftSum d ≤ 2 ^ 15) →
      step s = .next { s with
        tables := { s.tables with tLl := tableOf 9 ll, tD := tableOf 5 d }
        control := { s.control with phase := .symbol } })

/-- The size check (46 R247). -/
def Obligations.SizeCheckBeforeTheTrailer : Prop :=
  ∀ s : State, s.control.phase = .endCheck →
    (s.out.outPos ≠ s.launch.expectedLen → Raises .sizeMismatch s (step s)) ∧
    (s.out.outPos = s.launch.expectedLen →
      step s = .next { s with control := { s.control with phase := .trailer } })

/-! ### The output and the checksum -/

/-- `OUT_APPEND(b)` (20 R47). -/
def Obligations.OutAppendWritesOneByte : Prop :=
  ∀ (b : Byte) (s : State),
    (¬ Room 1 s → outAppend b s = .error (.raise .sizeMismatch)) ∧
    (Room 1 s → ∃ t, outAppend b s = .ok t ∧ Appended b s t)

/-- The copy of a match is the last `distance` bytes repeated, also where it overlaps itself (45 R164, 20 R51). -/
def Obligations.MatchCopyRepeatsTheHistory : Prop :=
  ∀ (distance k : Nat) (s : State), 1 ≤ distance → distance ≤ s.out.outPos.toNat → HistoryWritten s → Room k s →
    ∃ t, copyMatch distance k s = .ok t ∧ Copied distance k s t ∧ { t with out := s.out, adler := s.adler } = s

/-- The closed form of the checksum after any byte string (46 R251, R252). -/
def Obligations.ChecksumClosedForm : Prop :=
  ∀ (d : List Byte) (c : Adler), c = d.foldl adlerStep { a := 1#16, b := 0#16 } →
    checksum c = adler32Of d ∧
    c.a.toNat = (1 + (d.map BitVec.toNat).sum) % 65521 ∧
    c.b.toNat =
      (d.length + ((List.range d.length).map fun i => (d.length - i) * (d.getD i 0#8).toNat).sum) % 65521

/-- A stored block copies its bytes (43 R127): the remaining bytes, one a step, unchanged and in order, and then the
block ends; the bytes before them stay. -/
def Obligations.StoredBlockIsVerbatim : Prop :=
  ∀ (s : State) (n : Nat), Inv s → InputPlaced s.launch → s.control.phase = .storedCopy →
    n = s.block.copyRem.toNat → s.reader.bytePos.toNat + n ≤ s.launch.inLen.toNat → Room n s →
    ∃ t : State, Sys2Proof.core.run n s = .next t ∧ t.control = { s.control with phase := afterBlock s } ∧
      t.out.outPos.toNat = s.out.outPos.toNat + n ∧ t.reader.bytePos.toNat = s.reader.bytePos.toNat + n ∧
      (∀ j < n, memRead t.out.outMem (s.out.outPos.toNat + j) =
        memRead s.launch.inMem (s.reader.bytePos.toNat + j)) ∧
      MemSameOutside s.out.outPos.toNat n s t

/-! ### Frames -/

/-- An instruction that is no literal, stored byte or distance symbol leaves every byte of the output, `OUT_POS`
and the checksum as they were (20 R47: OUT_APPEND is the only writer). -/
def Obligations.OthersLeaveTheOutput : Prop :=
  ∀ (i : Instr) (s t : State), appends i = false → exec i s = .next t → Faulted s t ∨ OutputSame s t

/-- An appending instruction writes `appendCount` bytes from `OUT_POS` on and no other byte (20 R47; 45 R164). For a
distance symbol the count is the pending length, held in a field by the model's choice (log 6). -/
def Obligations.AppendersWriteAtOutPosOnly : Prop :=
  ∀ (i : Instr) (s t : State), appends i = true → exec i s = .next t → Faulted s t ∨
    (MemSameOutside s.out.outPos.toNat (appendCount i s) s t ∧
      t.out.outPos.toNat = s.out.outPos.toNat + appendCount i s)

/-- Which instruction writes which other register (10_state R13, R16): the bit reader only by extra bits, the block
registers by the block elements, the dynamic-header registers and `T_CL` by their elements, the pending length by
the halves of a match, `STATUS` by the trailer; `ERR`, the launch parameters, `T_LL` and `T_D` by none. The clauses
on the pending length (log 6) and on the counter of free draws (log 10) are about the MODEL's own fields: R13 and R16
do not speak of them. -/
def Obligations.RegistersHaveOneWriter : Prop :=
  ∀ (i : Instr) (s t : State), exec i s = .next t → Faulted s t ∨
    (t.launch = s.launch ∧ t.control.err = s.control.err ∧ t.freeCount = s.freeCount ∧
      t.tables.tLl = s.tables.tLl ∧ t.tables.tD = s.tables.tD ∧
      (readsExtra i = false → t.reader = s.reader) ∧ (isMatchHalf i = false → t.matchLen = s.matchLen) ∧
      (wordPhase i ≠ some .trailer → t.control.status = s.control.status) ∧
      (wordPhase i ≠ some .dynClen → t.tables.tCl = s.tables.tCl) ∧
      (wordPhase i ≠ some .blockHdr →
        t.block.bfinal = s.block.bfinal ∧ t.block.btype = s.block.btype) ∧
      (wordPhase i ≠ some .storedHdr → t.block.len = s.block.len ∧ t.block.nlen = s.block.nlen ∧
        (wordPhase i ≠ some .storedCopy → t.block.copyRem = s.block.copyRem)) ∧
      (wordPhase i ≠ some .dynHdr →
        t.dyn.hlit = s.dyn.hlit ∧ t.dyn.hdist = s.dyn.hdist ∧ t.dyn.hclen = s.dyn.hclen ∧
        (wordPhase i ≠ some .dynClen →
          t.dyn.clIdx = s.dyn.clIdx ∧ t.dyn.clLengths = s.dyn.clLengths)) ∧
      (isClSymbol i = false → t.dyn.lengths = s.dyn.lengths ∧
        (wordPhase i ≠ some .dynClen → t.dyn.lenIdx = s.dyn.lenIdx)))

/-! ### Rules of the whole machine -/

/-- The invariant holds after reset; its clause on the pending length is about the model's own field (log 6). -/
def Obligations.ResetHasTheInvariant : Prop := Inv State.reset

/-- Every step keeps the invariant: I-BR, I-HT, the output and its checksum, `STATUS` with `PHASE`, and what holds in
each phase (10_state R12, R18, R19, R22; 46 R246). That no length is pending between two steps is about the model's own
field (log 6). -/
def Obligations.EveryStepKeepsTheInvariant : Prop :=
  ∀ s t : State, Inv s → step s = .next t → Inv t

/-- From the invariant, with the input placed, the model never stops: every step has the spec's effect (42 R113, 20
R48, 45 R169). -/
def Obligations.StepAlwaysAnswers : Prop :=
  ∀ s : State, Inv s → InputPlaced s.launch → ∃ t, step s = .next t

/-- Every run ends (70 R309): in at most 16 `IN_LEN` + 2 steps, which is R309's bound with the most blocks, the engine
is in `DONE` or in `FAULT`. -/
def Obligations.EveryRunEnds : Prop :=
  ∀ s : State, Inv s → InputPlaced s.launch → s.control.status = .busy →
    ∃ t : State, Sys2Proof.core.run (16 * s.launch.inLen.toNat + 2) s = .next t ∧
      (t.control.status = .done ∨ t.control.status = .fault)

/-- The bit position never goes back (10_state R14): a step that takes an element moves it forward within the input, or
faults; a bit-free step leaves it (70 R309). -/
def Obligations.BitPositionAdvances : Prop :=
  ∀ s t : State, Inv s → s.control.status = .busy → step s = .next t → t.control.status ≠ .fault →
    (bitFree s.control.phase = true → t.reader = s.reader) ∧
    (bitFree s.control.phase = false → s.bitpos < t.bitpos ∧ t.bitpos ≤ 8 * s.launch.inLen.toNat)

/-- The phases follow the transition table (46 R246), and no step changes a launch parameter (10_state R11) or leaves
half a match pending (45 R163; that the pending length is a field is the model's choice, log 6). -/
def Obligations.PhasesFollowTheTable : Prop :=
  ∀ s t : State, step s = .next t →
    t.control.phase ∈ successors s.control.phase ∧ t.launch = s.launch ∧
      (s.matchLen = none → t.matchLen = none)

/-- `BFINAL` is written by `BLOCK` and by no other element (10_state R16). -/
def Obligations.OnlyBlockWritesBfinal : Prop :=
  ∀ s t : State, step s = .next t → s.control.phase ≠ .blockHdr → t.control.phase ≠ .fault →
    t.block.bfinal = s.block.bfinal

/-- A run ends well only when everything was checked (46 R247 to R250): the output has exactly `EXPECTED_LEN` bytes,
and the aligned four bytes of the trailer, most significant first, are its Adler-32. -/
def Obligations.DoneMeansVerified : Prop :=
  ∀ s t : State, Inv s → s.control.status = .busy → step s = .next t → t.control.status = .done →
    s.control.phase = .trailer ∧ t.control.err = .none ∧ t.out = s.out ∧
    t.out.outPos = t.launch.expectedLen ∧
    t.out.outMem.map Prod.fst = List.range t.launch.expectedLen.toNat ∧
    t.reader.bitCount = 0#6 ∧ t.reader.bytePos.toNat = bytePosAt s.bitpos + 4 ∧
    ∃ b0 b1 b2 b3 : Byte,
      memRead s.launch.inMem (bytePosAt s.bitpos) = some b0 ∧
      memRead s.launch.inMem (bytePosAt s.bitpos + 1) = some b1 ∧
      memRead s.launch.inMem (bytePosAt s.bitpos + 2) = some b2 ∧
      memRead s.launch.inMem (bytePosAt s.bitpos + 3) = some b3 ∧
      b0 ++ b1 ++ b2 ++ b3 = adler32Of (outBytes t)

/-- A run's result depends only on `IN_MEM[0 .. IN_LEN-1]`, `IN_LEN`, `EXPECTED_LEN` and `CFG` (70 R301): two runs
started from any two states that agree on these go through the same `PHASE`, `STATUS` and `ERR`, and end well with the
same output, position and checksum. -/
def Obligations.ResultDependsOnLaunchOnly : Prop :=
  ∀ (s1 s2 t1 : State) (k : Nat), s1.launch.inLen = s2.launch.inLen →
    s1.launch.expectedLen = s2.launch.expectedLen → s1.launch.cfg = s2.launch.cfg →
    (∀ a < s1.launch.inLen.toNat, memRead s1.launch.inMem a = memRead s2.launch.inMem a) →
    Sys2Proof.core.run k (start s1) = .next t1 →
    ∃ t2 : State, Sys2Proof.core.run k (start s2) = .next t2 ∧ t1.control = t2.control ∧
      (t1.control.status = .done → t1.out = t2.out ∧ t1.reader = t2.reader ∧ t1.adler = t2.adler)
end

