-- ==== Sys2Proof/Laws/Memory.lean ====
section
/-! SUPPORT. The laws of the two byte memories: read after write, other addresses, the canonical form. -/

namespace Sys2Proof.Machine

open Sys2Proof

/-- Reading back the byte just written (20_memory R51). -/
@[simp] theorem memRead_memWrite_same (m : List Host.Cell) (a : Nat) (b : Byte) :
    memRead (memWrite m a b) a = some b := by
  induction m with
  | nil => simp [memWrite, memRead]
  | cons c m ih =>
    simp only [memWrite]
    split
    · simp [memRead]
    · split
      · simp [memRead]
      · rename_i h
        simp [memRead, Ne.symm h, ih]

/-- A write leaves every other address alone. -/
theorem memRead_memWrite_other (m : List Host.Cell) (a a' : Nat) (b : Byte) (h : a' ≠ a) :
    memRead (memWrite m a b) a' = memRead m a' := by
  induction m with
  | nil => simp [memWrite, memRead, Ne.symm h]
  | cons c m ih =>
    simp only [memWrite]
    split
    · simp [memRead, Ne.symm h]
    · split
      · rename_i _ hc
        simp [memRead, ← hc, Ne.symm h]
      · simp [memRead, ih]

/-- The addresses a memory lists after a write. -/
theorem mem_fst_memWrite (m : List Host.Cell) (a x : Nat) (b : Byte) :
    x ∈ (memWrite m a b).map Prod.fst ↔ x = a ∨ x ∈ m.map Prod.fst := by
  induction m with
  | nil => simp [memWrite]
  | cons c m ih =>
    simp only [memWrite]
    split
    · simp
    · split
      · rename_i h
        simp [h]
      · simp only [List.map_cons, List.mem_cons, ih]
        tauto

/-- A write keeps the canonical form. -/
theorem wf_memWrite (m : List Host.Cell) (a : Nat) (b : Byte) (h : Memory.wf m) :
    Memory.wf (memWrite m a b) := by
  induction m with
  | nil => simp [memWrite, Memory.wf]
  | cons c m ih =>
    have hc := List.pairwise_cons.mp h
    simp only [memWrite]
    split
    · rename_i hlt
      refine List.pairwise_cons.mpr ⟨fun x hx => ?_, h⟩
      rcases List.mem_cons.mp hx with rfl | hx
      · exact hlt
      · exact lt_trans hlt (hc.1 x hx)
    · split
      · rename_i _ he
        refine List.pairwise_cons.mpr ⟨fun x hx => ?_, hc.2⟩
        exact he ▸ hc.1 x hx
      · rename_i hlt hne
        refine List.pairwise_cons.mpr ⟨fun x hx => ?_, ih hc.2⟩
        rcases (mem_fst_memWrite m a x b).mp hx with rfl | hx
        · exact lt_of_le_of_ne (Nat.le_of_not_lt hlt) (Ne.symm hne)
        · exact hc.1 x hx

/-- Writing a byte string keeps the canonical form. -/
theorem wf_memWriteBytes (bs : List Byte) (m : List Host.Cell) (a : Nat) (h : Memory.wf m) :
    Memory.wf (memWriteBytes m a bs) := by
  induction bs generalizing m a with
  | nil => exact h
  | cons b bs ih => exact ih _ _ (wf_memWrite m a b h)

/-- A memory made from any cells has the canonical form. -/
theorem wf_memOfCells (bound : Nat) (cells : List Host.Cell) : Memory.wf (memOfCells bound cells) := by
  unfold memOfCells
  generalize cells.filter _ = cs
  suffices ∀ m, Memory.wf m → Memory.wf (cs.foldl (fun m c => memWrite m c.1 c.2) m) from
    this [] List.Pairwise.nil
  induction cs with
  | nil => exact fun _ h => h
  | cons c cs ih => exact fun m h => ih _ (wf_memWrite m c.1 c.2 h)

/-- A listed address has a value. -/
theorem isSome_memRead_iff (m : List Host.Cell) (a : Nat) :
    (memRead m a).isSome = true ↔ a ∈ m.map Prod.fst := by
  induction m with
  | nil => simp [memRead]
  | cons c m ih =>
    simp only [memRead]
    split
    · rename_i h
      simp [h]
    · rename_i h
      simp only [List.map_cons, List.mem_cons, ih]
      constructor
      · exact Or.inr
      · rintro (rfl | h')
        · exact absurd rfl h
        · exact h'

/-- A write above every listed address goes to the end: OUT_APPEND's write (20 R47). -/
theorem memWrite_of_all_lt (m : List Host.Cell) (a : Nat) (b : Byte) (h : ∀ c ∈ m, c.1 < a) :
    memWrite m a b = m ++ [(a, b)] := by
  induction m with
  | nil => rfl
  | cons c m ih =>
    have hc : c.1 < a := h c (by simp)
    simp [memWrite, Nat.not_lt.mpr hc.le, Nat.ne_of_gt hc, ih fun d hd => h d (by simp [hd])]

/-- A memory that lists `0 .. n-1` reads as the list of its bytes. -/
theorem memRead_of_range (m : List Host.Cell) (n : Nat) (h : m.map Prod.fst = List.range n) (a : Nat) :
    memRead m a = (m.map Prod.snd)[a]? := by
  suffices ∀ k, m.map Prod.fst = List.range' k n → memRead m (k + a) = (m.map Prod.snd)[a]? by
    simpa using this 0 (by rw [h, List.range_eq_range'])
  clear h
  induction m generalizing n a with
  | nil => simp [memRead]
  | cons c m ih =>
    intro k hk
    cases n with
    | zero => simp at hk
    | succ n =>
      rw [List.range'_succ] at hk
      simp only [List.map_cons, List.cons.injEq] at hk
      cases a with
      | zero => simp [memRead, hk.1]
      | succ a =>
        have := ih n a (k + 1) hk.2
        simp only [memRead]
        rw [if_neg (by omega)]
        simpa [Nat.add_assoc, Nat.add_comm 1 a] using this

end Sys2Proof.Machine
end

