-- ==== Sys2Proof/Laws/State.lean ====
section
/-! SUPPORT. One lemma per field and update of State, each true by `rfl`. -/

namespace Sys2Proof.Machine

open Sys2Proof

variable (s : State)

@[simp] theorem State.setReader_launch (r : BitReader) : (s.setReader r).launch = s.launch := rfl
@[simp] theorem State.setReader_reader (r : BitReader) : (s.setReader r).reader = r := rfl
@[simp] theorem State.setReader_control (r : BitReader) : (s.setReader r).control = s.control := rfl
@[simp] theorem State.setReader_block (r : BitReader) : (s.setReader r).block = s.block := rfl
@[simp] theorem State.setReader_dyn (r : BitReader) : (s.setReader r).dyn = s.dyn := rfl
@[simp] theorem State.setReader_tables (r : BitReader) : (s.setReader r).tables = s.tables := rfl
@[simp] theorem State.setReader_out (r : BitReader) : (s.setReader r).out = s.out := rfl
@[simp] theorem State.setReader_adler (r : BitReader) : (s.setReader r).adler = s.adler := rfl
@[simp] theorem State.setReader_matchLen (r : BitReader) : (s.setReader r).matchLen = s.matchLen := rfl
@[simp] theorem State.setReader_freeCount (r : BitReader) : (s.setReader r).freeCount = s.freeCount := rfl

@[simp] theorem State.setPhase_launch (p : Phase) : (s.setPhase p).launch = s.launch := rfl
@[simp] theorem State.setPhase_reader (p : Phase) : (s.setPhase p).reader = s.reader := rfl
@[simp] theorem State.setPhase_control (p : Phase) : (s.setPhase p).control = { s.control with phase := p } := rfl
@[simp] theorem State.setPhase_block (p : Phase) : (s.setPhase p).block = s.block := rfl
@[simp] theorem State.setPhase_dyn (p : Phase) : (s.setPhase p).dyn = s.dyn := rfl
@[simp] theorem State.setPhase_tables (p : Phase) : (s.setPhase p).tables = s.tables := rfl
@[simp] theorem State.setPhase_out (p : Phase) : (s.setPhase p).out = s.out := rfl
@[simp] theorem State.setPhase_adler (p : Phase) : (s.setPhase p).adler = s.adler := rfl
@[simp] theorem State.setPhase_matchLen (p : Phase) : (s.setPhase p).matchLen = s.matchLen := rfl
@[simp] theorem State.setPhase_freeCount (p : Phase) : (s.setPhase p).freeCount = s.freeCount := rfl

@[simp] theorem State.setControl_launch (c : Control) : (s.setControl c).launch = s.launch := rfl
@[simp] theorem State.setControl_reader (c : Control) : (s.setControl c).reader = s.reader := rfl
@[simp] theorem State.setControl_control (c : Control) : (s.setControl c).control = c := rfl
@[simp] theorem State.setControl_block (c : Control) : (s.setControl c).block = s.block := rfl
@[simp] theorem State.setControl_dyn (c : Control) : (s.setControl c).dyn = s.dyn := rfl
@[simp] theorem State.setControl_tables (c : Control) : (s.setControl c).tables = s.tables := rfl
@[simp] theorem State.setControl_out (c : Control) : (s.setControl c).out = s.out := rfl
@[simp] theorem State.setControl_adler (c : Control) : (s.setControl c).adler = s.adler := rfl
@[simp] theorem State.setControl_matchLen (c : Control) : (s.setControl c).matchLen = s.matchLen := rfl
@[simp] theorem State.setControl_freeCount (c : Control) : (s.setControl c).freeCount = s.freeCount := rfl

@[simp] theorem State.setBlock_launch (b : Block) : (s.setBlock b).launch = s.launch := rfl
@[simp] theorem State.setBlock_reader (b : Block) : (s.setBlock b).reader = s.reader := rfl
@[simp] theorem State.setBlock_control (b : Block) : (s.setBlock b).control = s.control := rfl
@[simp] theorem State.setBlock_block (b : Block) : (s.setBlock b).block = b := rfl
@[simp] theorem State.setBlock_dyn (b : Block) : (s.setBlock b).dyn = s.dyn := rfl
@[simp] theorem State.setBlock_tables (b : Block) : (s.setBlock b).tables = s.tables := rfl
@[simp] theorem State.setBlock_out (b : Block) : (s.setBlock b).out = s.out := rfl
@[simp] theorem State.setBlock_adler (b : Block) : (s.setBlock b).adler = s.adler := rfl
@[simp] theorem State.setBlock_matchLen (b : Block) : (s.setBlock b).matchLen = s.matchLen := rfl
@[simp] theorem State.setBlock_freeCount (b : Block) : (s.setBlock b).freeCount = s.freeCount := rfl

@[simp] theorem State.setDyn_launch (d : Dynamic) : (s.setDyn d).launch = s.launch := rfl
@[simp] theorem State.setDyn_reader (d : Dynamic) : (s.setDyn d).reader = s.reader := rfl
@[simp] theorem State.setDyn_control (d : Dynamic) : (s.setDyn d).control = s.control := rfl
@[simp] theorem State.setDyn_block (d : Dynamic) : (s.setDyn d).block = s.block := rfl
@[simp] theorem State.setDyn_dyn (d : Dynamic) : (s.setDyn d).dyn = d := rfl
@[simp] theorem State.setDyn_tables (d : Dynamic) : (s.setDyn d).tables = s.tables := rfl
@[simp] theorem State.setDyn_out (d : Dynamic) : (s.setDyn d).out = s.out := rfl
@[simp] theorem State.setDyn_adler (d : Dynamic) : (s.setDyn d).adler = s.adler := rfl
@[simp] theorem State.setDyn_matchLen (d : Dynamic) : (s.setDyn d).matchLen = s.matchLen := rfl
@[simp] theorem State.setDyn_freeCount (d : Dynamic) : (s.setDyn d).freeCount = s.freeCount := rfl

@[simp] theorem State.setTables_launch (t : Tables) : (s.setTables t).launch = s.launch := rfl
@[simp] theorem State.setTables_reader (t : Tables) : (s.setTables t).reader = s.reader := rfl
@[simp] theorem State.setTables_control (t : Tables) : (s.setTables t).control = s.control := rfl
@[simp] theorem State.setTables_block (t : Tables) : (s.setTables t).block = s.block := rfl
@[simp] theorem State.setTables_dyn (t : Tables) : (s.setTables t).dyn = s.dyn := rfl
@[simp] theorem State.setTables_tables (t : Tables) : (s.setTables t).tables = t := rfl
@[simp] theorem State.setTables_out (t : Tables) : (s.setTables t).out = s.out := rfl
@[simp] theorem State.setTables_adler (t : Tables) : (s.setTables t).adler = s.adler := rfl
@[simp] theorem State.setTables_matchLen (t : Tables) : (s.setTables t).matchLen = s.matchLen := rfl
@[simp] theorem State.setTables_freeCount (t : Tables) : (s.setTables t).freeCount = s.freeCount := rfl

@[simp] theorem State.setOut_launch (o : Output) (a : Adler) : (s.setOut o a).launch = s.launch := rfl
@[simp] theorem State.setOut_reader (o : Output) (a : Adler) : (s.setOut o a).reader = s.reader := rfl
@[simp] theorem State.setOut_control (o : Output) (a : Adler) : (s.setOut o a).control = s.control := rfl
@[simp] theorem State.setOut_block (o : Output) (a : Adler) : (s.setOut o a).block = s.block := rfl
@[simp] theorem State.setOut_dyn (o : Output) (a : Adler) : (s.setOut o a).dyn = s.dyn := rfl
@[simp] theorem State.setOut_tables (o : Output) (a : Adler) : (s.setOut o a).tables = s.tables := rfl
@[simp] theorem State.setOut_out (o : Output) (a : Adler) : (s.setOut o a).out = o := rfl
@[simp] theorem State.setOut_adler (o : Output) (a : Adler) : (s.setOut o a).adler = a := rfl
@[simp] theorem State.setOut_matchLen (o : Output) (a : Adler) : (s.setOut o a).matchLen = s.matchLen := rfl
@[simp] theorem State.setOut_freeCount (o : Output) (a : Adler) : (s.setOut o a).freeCount = s.freeCount := rfl

@[simp] theorem State.setMatchLen_launch (n : Option (BitVec 9)) : (s.setMatchLen n).launch = s.launch := rfl
@[simp] theorem State.setMatchLen_reader (n : Option (BitVec 9)) : (s.setMatchLen n).reader = s.reader := rfl
@[simp] theorem State.setMatchLen_control (n : Option (BitVec 9)) : (s.setMatchLen n).control = s.control := rfl
@[simp] theorem State.setMatchLen_block (n : Option (BitVec 9)) : (s.setMatchLen n).block = s.block := rfl
@[simp] theorem State.setMatchLen_dyn (n : Option (BitVec 9)) : (s.setMatchLen n).dyn = s.dyn := rfl
@[simp] theorem State.setMatchLen_tables (n : Option (BitVec 9)) : (s.setMatchLen n).tables = s.tables := rfl
@[simp] theorem State.setMatchLen_out (n : Option (BitVec 9)) : (s.setMatchLen n).out = s.out := rfl
@[simp] theorem State.setMatchLen_adler (n : Option (BitVec 9)) : (s.setMatchLen n).adler = s.adler := rfl
@[simp] theorem State.setMatchLen_matchLen (n : Option (BitVec 9)) : (s.setMatchLen n).matchLen = n := rfl
@[simp] theorem State.setMatchLen_freeCount (n : Option (BitVec 9)) : (s.setMatchLen n).freeCount = s.freeCount := rfl

@[simp] theorem State.setLaunch_launch (l : Launch) : (s.setLaunch l).launch = l := rfl
@[simp] theorem State.setLaunch_reader (l : Launch) : (s.setLaunch l).reader = s.reader := rfl
@[simp] theorem State.setLaunch_control (l : Launch) : (s.setLaunch l).control = s.control := rfl
@[simp] theorem State.setLaunch_block (l : Launch) : (s.setLaunch l).block = s.block := rfl
@[simp] theorem State.setLaunch_dyn (l : Launch) : (s.setLaunch l).dyn = s.dyn := rfl
@[simp] theorem State.setLaunch_tables (l : Launch) : (s.setLaunch l).tables = s.tables := rfl
@[simp] theorem State.setLaunch_out (l : Launch) : (s.setLaunch l).out = s.out := rfl
@[simp] theorem State.setLaunch_adler (l : Launch) : (s.setLaunch l).adler = s.adler := rfl
@[simp] theorem State.setLaunch_matchLen (l : Launch) : (s.setLaunch l).matchLen = s.matchLen := rfl
@[simp] theorem State.setLaunch_freeCount (l : Launch) : (s.setLaunch l).freeCount = s.freeCount := rfl

@[simp] theorem State.drawn_launch : (s.drawn).launch = s.launch := rfl
@[simp] theorem State.drawn_reader : (s.drawn).reader = s.reader := rfl
@[simp] theorem State.drawn_control : (s.drawn).control = s.control := rfl
@[simp] theorem State.drawn_block : (s.drawn).block = s.block := rfl
@[simp] theorem State.drawn_dyn : (s.drawn).dyn = s.dyn := rfl
@[simp] theorem State.drawn_tables : (s.drawn).tables = s.tables := rfl
@[simp] theorem State.drawn_out : (s.drawn).out = s.out := rfl
@[simp] theorem State.drawn_adler : (s.drawn).adler = s.adler := rfl
@[simp] theorem State.drawn_matchLen : (s.drawn).matchLen = s.matchLen := rfl
@[simp] theorem State.drawn_freeCount : (s.drawn).freeCount = s.freeCount + 1 := rfl

@[simp] theorem takeFault_launch (e : ErrCode) : (takeFault e s).launch = s.launch := rfl
@[simp] theorem takeFault_control (e : ErrCode) : (takeFault e s).control = { phase := .fault, status := .fault, err := e } := rfl
@[simp] theorem takeFault_matchLen (e : ErrCode) : (takeFault e s).matchLen = none := rfl
@[simp] theorem takeFault_freeCount (e : ErrCode) : (takeFault e s).freeCount = s.freeCount + 1 := rfl
@[simp] theorem takeFault_reader (e : ErrCode) : (takeFault e s).reader = freeReader s.freeCount := rfl
@[simp] theorem takeFault_block (e : ErrCode) : (takeFault e s).block = freeBlock s.freeCount := rfl
@[simp] theorem takeFault_dyn (e : ErrCode) : (takeFault e s).dyn = freeDyn s.freeCount := rfl
@[simp] theorem takeFault_tables (e : ErrCode) : (takeFault e s).tables = freeTables s.freeCount := rfl

@[simp] theorem start_launch : (start s).launch = s.launch := rfl
@[simp] theorem start_control : (start s).control = { phase := .zhdr, status := .busy, err := .none } := rfl
@[simp] theorem start_reader : (start s).reader = { bytePos := 0#32, bitBuf := 0#64, bitCount := 0#6 } := rfl
@[simp] theorem start_out : (start s).out = { outMem := [], outPos := 0#32 } := rfl
@[simp] theorem start_adler : (start s).adler = { a := 1#16, b := 0#16 } := rfl
@[simp] theorem start_matchLen : (start s).matchLen = none := rfl
@[simp] theorem start_freeCount : (start s).freeCount = s.freeCount + 1 := rfl

end Sys2Proof.Machine
end

