-- ==== Sys2Proof/Laws/Ops.lean ====
section
/-! SUPPORT. One lemma per shared operation: everything it can do. Later proofs cite these and do not unfold the
operations. -/

namespace Sys2Proof.Machine

open Sys2Proof

/-! ### Outcomes -/

@[simp] theorem settle_ok (s s' : State) : settle s (.ok s') = .next s' := rfl
@[simp] theorem settle_raise (s : State) (e : ErrCode) :
    settle s (.error (.raise e)) = .next (takeFault e s) := rfl
@[simp] theorem settle_stuck (s : State) (f : Fault) : settle s (.error (.stuck f)) = .fault f := rfl
@[simp] theorem settle_refuse (s : State) (r : Refusal) : settle s (.error (.refuse r)) = .refused r := rfl

/-- A settled outcome is a next state in two ways: the meaning's own state, or the entry of the fault it raised. -/
theorem settle_next {s t : State} {r : Res State} (h : settle s r = .next t) :
    r = .ok t ∨ ∃ e, r = .error (.raise e) ∧ t = takeFault e s := by
  rcases r with (e | f | r) | s'
  · exact .inr ⟨e, rfl, by cases h; rfl⟩
  · cases h
  · cases h
  · exact .inl (by cases h; rfl)

/-- After a fault the output memory has its canonical form. -/
theorem wf_takeFault (e : ErrCode) (s : State) : Memory.wf (takeFault e s).out.outMem :=
  wf_memOfCells _ _

/-! ### The bit reader -/

/-- What one round of the refill does. -/
theorem pullBytes_succ (l : Launch) (n k : Nat) (r : BitReader) (h : r.bitCount.toNat < n)
    (hin : r.bytePos.toNat < l.inLen.toNat) (b : Byte) (hb : memRead l.inMem r.bytePos.toNat = some b) :
    pullBytes l n (k + 1) r = pullBytes l n k
      { bytePos := r.bytePos + 1#32, bitBuf := r.bitBuf ||| (b.setWidth 64 <<< r.bitCount.toNat)
        bitCount := r.bitCount + 8#6 } := by
  simp [pullBytes, h, Nat.not_le.mpr hin, hb]

/-- Where the bits are already held the refill does nothing. -/
theorem pullBytes_enough (l : Launch) (n k : Nat) (r : BitReader) (h : n ≤ r.bitCount.toNat) :
    pullBytes l n k r = .ok r := by
  cases k <;> simp [pullBytes, Nat.not_lt.mpr h]

/-- The refill answers a reader, the end of the input, or a byte nobody placed; nothing else. -/
theorem pullBytes_error {l : Launch} {n k : Nat} {r : BitReader} {e : Stop}
    (h : pullBytes l n k r = .error e) : e = .raise .inputExhausted ∨ e = .stuck .inByteAbsent := by
  induction k generalizing r with
  | zero => simp [pullBytes] at h
  | succ k ih =>
    simp only [pullBytes] at h
    split at h
    · split at h
      · exact .inl (by cases h; rfl)
      · split at h
        · exact .inr (by cases h; rfl)
        · exact ih h
    · cases h

/-- READ answers what its last three lines take from the refilled reader. -/
theorem readBits_ok {l : Launch} {n v : Nat} {r r' : BitReader} (h : readBits l n r = .ok (v, r')) :
    ∃ q, pullBytes l n n r = .ok q ∧ v = q.bitBuf.toNat % 2 ^ n ∧
      r' = { q with bitBuf := q.bitBuf >>> n, bitCount := q.bitCount - BitVec.ofNat 6 n } := by
  unfold readBits at h
  split at h
  · rename_i q hq
    cases h
    exact ⟨q, hq, rfl, rfl⟩
  · cases h

/-- READ stops only at the end of the input, or at a byte nobody placed. -/
theorem readBits_error {l : Launch} {n : Nat} {r : BitReader} {e : Stop} (h : readBits l n r = .error e) :
    e = .raise .inputExhausted ∨ e = .stuck .inByteAbsent := by
  unfold readBits at h
  split at h
  · cases h
  · rename_i e' he
    cases h
    exact pullBytes_error he

/-- READ answers a number of `n` bits. -/
theorem readBits_lt {l : Launch} {n v : Nat} {r r' : BitReader} (h : readBits l n r = .ok (v, r')) :
    v < 2 ^ n := by
  obtain ⟨q, -, rfl, -⟩ := readBits_ok h
  exact Nat.mod_lt _ (Nat.two_pow_pos n)

/-- An operand is `base` plus the READ; only the bit reader moves. -/
theorem readOperand_ok {base e v : Nat} {s s' : State} (h : readOperand base e s = .ok (v, s')) :
    ∃ x r, readBits s.launch e s.reader = .ok (x, r) ∧ v = base + x ∧ s' = s.setReader r := by
  unfold readOperand at h
  split at h
  · rename_i x r hx
    cases h
    exact ⟨x, r, hx, rfl, rfl⟩
  · cases h

/-- An operand stops only as READ does. -/
theorem readOperand_error {base e : Nat} {s : State} {stop : Stop} (h : readOperand base e s = .error stop) :
    stop = .raise .inputExhausted ∨ stop = .stuck .inByteAbsent := by
  unfold readOperand at h
  split at h
  · cases h
  · rename_i x hx
    cases h
    exact readBits_error hx

/-- The fetch moves the bit reader and nothing else. -/
theorem fetch_ok {s s' : State} {i : Instr} (h : fetch s = .ok (i, s')) :
    ∃ r, runProg s.launch (elementProg s.ctx) s.reader = .ok (i, r) ∧ s' = s.setReader r := by
  unfold fetch at h
  split at h
  · rename_i j r hr
    cases h
    exact ⟨r, hr, rfl⟩
  · cases h

/-- Programs run one after the other. -/
theorem runProg_bind {α β : Type} (l : Launch) (p : BitProg α) (f : α → BitProg β) (r : BitReader) :
    runProg l (p.bind f) r =
      match runProg l p r with
      | .ok (a, r') => runProg l (f a) r'
      | .error e => .error e := by
  induction p generalizing r with
  | done a => rfl
  | reject e => rfl
  | read n k ih =>
    simp only [BitProg.bind, runProg]
    cases readBits l n r with
    | ok x => exact ih x.1 x.2
    | error e => rfl
  | align k ih => exact ih (alignReader r)

/-- Programs run one after the other over a bit string. -/
theorem runBits_bind {α β : Type} (p : BitProg α) (f : α → BitProg β) (pos : Nat) (bits : List Bool) :
    (p.bind f).runBits pos bits =
      match p.runBits pos bits with
      | .ok (a, pos') => (f a).runBits pos' (bits.drop (pos' - pos))
      | .error e => .error e := by
  suffices ∀ (pos : Nat) (bits : List Bool), (p.bind f).runBits pos bits =
      (match p.runBits pos bits with
        | .ok (a, pos') => (f a).runBits pos' (bits.drop (pos' - pos))
        | .error e => .error e) ∧ ∀ x, p.runBits pos bits = .ok x → pos ≤ x.2 from (this pos bits).1
  clear pos bits
  induction p with
  | done a => exact fun pos bits => ⟨by simp [BitProg.bind, BitProg.runBits], fun x hx => by cases hx; simp⟩
  | reject e => exact fun pos bits => ⟨rfl, fun x hx => by cases hx⟩
  | read n k ih =>
    intro pos bits
    simp only [BitProg.bind, BitProg.runBits]
    split
    · have h := ih (natOfBits (bits.take n)) (pos + n) (bits.drop n)
      refine ⟨?_, fun x hx => Nat.le_of_add_right_le (h.2 x hx)⟩
      rw [h.1]
      split
      · rename_i a pos' hk
        have := h.2 _ hk
        rw [List.drop_drop]
        congr 2
        simp only at this
        omega
      · rfl
    · exact ⟨rfl, fun x hx => by cases hx⟩
  | align k ih =>
    intro pos bits
    simp only [BitProg.bind, BitProg.runBits]
    have h := ih (pos + (8 - pos % 8) % 8) (bits.drop ((8 - pos % 8) % 8))
    refine ⟨?_, fun x hx => Nat.le_of_add_right_le (h.2 x hx)⟩
    rw [h.1]
    split
    · rename_i a pos' hk
      have := h.2 _ hk
      rw [List.drop_drop]
      congr 2
      simp only at this
      omega
    · rfl

/-! ### BUILD -/

/-- BUILD answers the sorted table, when it answers. -/
theorem build_ok {w : Nat} {strict : Bool} {L : List Nat} {T : HuffTable w} (h : build w strict L = .ok T) :
    T = tableOf w L ∧ ∀ x ∈ L, x ≤ 15 := by
  unfold build buildTable at h
  by_cases h1 : (L.any fun len => decide (15 < len)) = true
  · simp [h1] at h
  · by_cases h2 : (strict && !notOverSubscribed (tableOf w L) 15 1 1) = true
    · simp [h1, h2] at h
    · rw [if_neg h1, if_neg h2] at h
      cases h
      refine ⟨rfl, fun x hx => Nat.le_of_not_lt fun hlt => h1 ?_⟩
      simp only [List.any_eq_true, decide_eq_true_eq]
      exact ⟨x, hx, hlt⟩

/-- BUILD raises ERR_CODE_LENGTHS or answers. -/
theorem build_error {w : Nat} {strict : Bool} {L : List Nat} {e : Stop} (h : build w strict L = .error e) :
    e = .raise .codeLengths := by
  unfold build at h
  split at h <;> cases h
  rfl

/-! ### The output -/

/-- OUT_APPEND answers one more byte, when there is room. -/
theorem outAppend_ok {b : Byte} {s t : State} (h : outAppend b s = .ok t) :
    s.out.outPos.toNat < s.launch.expectedLen.toNat ∧
      t = s.setOut { outMem := memWrite s.out.outMem s.out.outPos.toNat b, outPos := s.out.outPos + 1#32 }
        (adlerStep s.adler b) := by
  unfold outAppend at h
  split at h
  · cases h
  · cases h
    exact ⟨by omega, rfl⟩

/-- OUT_APPEND raises ERR_SIZE_MISMATCH or answers. -/
theorem outAppend_error {b : Byte} {s : State} {e : Stop} (h : outAppend b s = .error e) :
    e = .raise .sizeMismatch ∧ s.launch.expectedLen.toNat ≤ s.out.outPos.toNat := by
  unfold outAppend at h
  split at h
  · cases h
    exact ⟨rfl, by assumption⟩
  · cases h

/-- OUT_APPEND moves the position by one and cannot wrap. -/
theorem outAppend_outPos {b : Byte} {s t : State} (h : outAppend b s = .ok t) :
    t.out.outPos.toNat = s.out.outPos.toNat + 1 := by
  obtain ⟨hlt, rfl⟩ := outAppend_ok h
  have := s.launch.expectedLen.isLt
  simp [BitVec.toNat_add]
  omega

/-- One byte of a match, then the rest. -/
theorem copyMatch_succ {distance k : Nat} {s t : State} (h : copyMatch distance (k + 1) s = .ok t) :
    ∃ b s', memRead s.out.outMem (s.out.outPos.toNat - distance) = some b ∧ outAppend b s = .ok s' ∧
      copyMatch distance k s' = .ok t := by
  simp only [copyMatch] at h
  split at h
  · cases h
  · rename_i b hb
    split at h
    · rename_i s' hs
      exact ⟨b, s', hb, hs, h⟩
    · cases h

/-- A copy writes the output, the position and the checksum, and nothing else. -/
theorem copyMatch_frame {distance k : Nat} {s t : State} (h : copyMatch distance k s = .ok t) :
    t = s.setOut t.out t.adler := by
  induction k generalizing s with
  | zero => simp only [copyMatch] at h; cases h; rfl
  | succ k ih =>
    obtain ⟨b, s', -, ho, hc⟩ := copyMatch_succ h
    obtain ⟨-, rfl⟩ := outAppend_ok ho
    have := ih hc
    exact this

/-- A copy stops at a full output, or at a byte nothing has written. -/
theorem copyMatch_error {distance k : Nat} {s : State} {e : Stop} (h : copyMatch distance k s = .error e) :
    e = .raise .sizeMismatch ∨ e = .stuck .outByteAbsent := by
  induction k generalizing s with
  | zero => simp [copyMatch] at h
  | succ k ih =>
    simp only [copyMatch] at h
    split at h
    · exact .inr (by cases h; rfl)
    · split at h
      · exact ih h
      · rename_i e' he
        cases h
        exact .inl (outAppend_error he).1

/-! ### Ends of blocks, and matches -/

@[simp] theorem endOfBlock_phase (s : State) : (endOfBlock s).control.phase = phaseAfterBlock s.block := rfl
@[simp] theorem endOfBlock_status (s : State) : (endOfBlock s).control.status = s.control.status := rfl
@[simp] theorem endOfBlock_err (s : State) : (endOfBlock s).control.err = s.control.err := rfl
@[simp] theorem endOfBlock_block (s : State) : (endOfBlock s).block = s.block := rfl
@[simp] theorem endOfBlock_out (s : State) : (endOfBlock s).out = s.out := rfl
@[simp] theorem endOfBlock_reader (s : State) : (endOfBlock s).reader = s.reader := rfl
@[simp] theorem endOfBlock_launch (s : State) : (endOfBlock s).launch = s.launch := rfl

/-- Appended lengths change `LENGTHS`, `LEN_IDX` and, at the end, `PHASE`. -/
theorem appendLengths_eq (v : BitVec 4) (rep : Nat) (s : State) :
    appendLengths v rep s = s.setDyn (appendLengths v rep s).dyn ∨
      appendLengths v rep s = (s.setDyn (appendLengths v rep s).dyn).setPhase .dynBuild := by
  unfold appendLengths
  simp only
  split
  · exact .inr rfl
  · exact .inl rfl

/-- A repeat answers the run appended after its extra bits. -/
theorem repeatLengths_ok {v : BitVec 4} {base e : Nat} {s t : State} (h : repeatLengths v base e s = .ok t) :
    ∃ x r, readBits s.launch e s.reader = .ok (x, r) ∧
      s.dyn.lenIdx.toNat + (base + x) ≤ nLl s.dyn + nD s.dyn ∧ t = appendLengths v (base + x) (s.setReader r) := by
  unfold repeatLengths at h
  split at h
  · rename_i rep s' hr
    obtain ⟨x, r, hx, rfl, rfl⟩ := readOperand_ok hr
    split at h
    · cases h
    · cases h
      exact ⟨x, r, hx, by omega, rfl⟩
  · cases h

/-- A length symbol's next state: the pending length, or a fault. -/
theorem lengthSymbol_next {base e : Nat} {s t : State} (h : lengthSymbol base e s = .next t) :
    (∃ x r, readBits s.launch e s.reader = .ok (x, r) ∧
      t = (s.setReader r).setMatchLen (some (BitVec.ofNat 9 (base + x)))) ∨
    ∃ e', t = takeFault e' s := by
  rcases settle_next h with h | ⟨e', -, rfl⟩
  · split at h
    · rename_i n s' hr
      obtain ⟨x, r, hx, rfl, rfl⟩ := readOperand_ok hr
      cases h
      exact .inl ⟨x, r, hx, rfl⟩
    · cases h
  · exact .inr ⟨e', rfl⟩

/-- A distance symbol's next state: the copy of the pending length, or a fault. -/
theorem distanceSymbol_next {base e : Nat} {s t : State} (h : distanceSymbol base e s = .next t) :
    ∃ n, s.matchLen = some n ∧
      ((∃ x r, readBits s.launch e s.reader = .ok (x, r) ∧ base + x ≤ s.out.outPos.toNat ∧
        copyMatch (base + x) n.toNat ((s.setReader r).setMatchLen none) = .ok t) ∨
      ∃ e', t = takeFault e' s) := by
  unfold distanceSymbol at h
  split at h
  · cases h
  · rename_i n hn
    refine ⟨n, hn, ?_⟩
    rcases settle_next h with h | ⟨e', -, rfl⟩
    · split at h
      · rename_i d s' hr
        obtain ⟨x, r, hx, rfl, rfl⟩ := readOperand_ok hr
        split at h
        · cases h
        · rename_i hle
          exact .inl ⟨x, r, hx, Nat.le_of_not_lt hle, h⟩
      · cases h
    · exact .inr ⟨e', rfl⟩

/-- A step over one element: exec of what was fetched, twice for a match, or the fault of a fetch. -/
theorem fetchExec_next {s t : State} (h : fetchExec s = .next t) :
    (∃ i s', fetch s = .ok (i, s') ∧ exec i s' = .next t) ∨ ∃ e, t = takeFault e s := by
  unfold fetchExec at h
  split at h
  · rename_i i s' hf
    exact .inl ⟨i, s', hf, h⟩
  · rcases settle_next h with h | ⟨e, -, rfl⟩
    · cases h
    · exact .inr ⟨e, rfl⟩

/-- An element's next state: that of its first half, or of both halves of a match. -/
theorem elementStep_next {s t : State} (h : elementStep s = .next t) :
    (fetchExec s = .next t ∧ (s.matchLen = none → t.matchLen = none)) ∨
    ∃ s', fetchExec s = .next s' ∧ s.matchLen = none ∧ s'.matchLen.isSome = true ∧ fetchExec s' = .next t := by
  unfold elementStep completeMatch at h
  split at h
  · rename_i s' hs
    split at h
    · rename_i hc
      simp only [Bool.and_eq_true, Option.isNone_iff_eq_none] at hc
      exact .inr ⟨s', hs, hc.1, hc.2, h⟩
    · rename_i hc
      cases h
      refine .inl ⟨hs, fun hn => ?_⟩
      simpa [hn] using hc
  · cases h
  · cases h

/-! ### The canonical form of the two memories -/

/-- Both memories after reset have the canonical form. -/
theorem wf_reset : Memory.wf State.reset.launch.inMem ∧ Memory.wf State.reset.out.outMem :=
  ⟨List.Pairwise.nil, List.Pairwise.nil⟩

/-- OUT_APPEND keeps it. -/
theorem wf_outAppend {b : Byte} {s t : State} (h : outAppend b s = .ok t) (hw : Memory.wf s.out.outMem) :
    Memory.wf t.out.outMem := by
  obtain ⟨-, rfl⟩ := outAppend_ok h
  exact wf_memWrite _ _ _ hw

/-- The copy of a match keeps it. -/
theorem wf_copyMatch {distance k : Nat} {s t : State} (h : copyMatch distance k s = .ok t)
    (hw : Memory.wf s.out.outMem) : Memory.wf t.out.outMem := by
  induction k generalizing s with
  | zero => simp only [copyMatch] at h; cases h; exact hw
  | succ k ih =>
    obtain ⟨b, s', -, ho, hc⟩ := copyMatch_succ h
    exact ih hc (wf_outAppend ho hw)

/-- Placing a table word keeps it. -/
theorem wf_placeTableWord (s : State) (nbits w : Nat) (h : Memory.wf s.launch.inMem) :
    Memory.wf (placeTableWord s nbits w).launch.inMem := by
  unfold placeTableWord
  split
  · exact h
  · exact wf_memWriteBytes _ _ _ List.Pairwise.nil

/-- A copy moves the position by the bytes it appends. -/
theorem copyMatch_outPos {distance k : Nat} {s t : State} (h : copyMatch distance k s = .ok t) :
    t.out.outPos.toNat = s.out.outPos.toNat + k := by
  induction k generalizing s with
  | zero => simp only [copyMatch] at h; cases h; rfl
  | succ k ih =>
    obtain ⟨b, s', -, ho, hc⟩ := copyMatch_succ h
    have := ih hc
    have := outAppend_outPos ho
    omega

/-- A copy leaves the bytes outside its range alone. -/
theorem copyMatch_memRead_other {distance k : Nat} {s t : State} (h : copyMatch distance k s = .ok t) (a : Nat)
    (ha : a < s.out.outPos.toNat ∨ s.out.outPos.toNat + k ≤ a) :
    memRead t.out.outMem a = memRead s.out.outMem a := by
  induction k generalizing s with
  | zero => simp only [copyMatch] at h; cases h; rfl
  | succ k ih =>
    obtain ⟨b, s', -, ho, hc⟩ := copyMatch_succ h
    have hp := outAppend_outPos ho
    rw [ih hc (by omega)]
    obtain ⟨-, rfl⟩ := outAppend_ok ho
    exact memRead_memWrite_other _ _ _ _ (by omega)

/-! ### Smaller operations -/

/-- Both checksum registers stay below the modulus (10_state R19). -/
theorem adlerStep_lt (c : Adler) (b : Byte) :
    (adlerStep c b).a.toNat < 65521 ∧ (adlerStep c b).b.toNat < 65521 := by
  simp only [adlerStep, Config.adlerMod, BitVec.toNat_ofNat]
  omega

/-- ALIGN reads nothing and pulls nothing (40 R93). -/
@[simp] theorem alignReader_bytePos (r : BitReader) : (alignReader r).bytePos = r.bytePos := rfl

/-- ALIGN leaves whole bytes. -/
theorem alignReader_bitCount (r : BitReader) :
    (alignReader r).bitCount.toNat = r.bitCount.toNat - r.bitCount.toNat % 8 := by
  have := r.bitCount.isLt
  simp only [alignReader, BitVec.toNat_sub, BitVec.toNat_ofNat]
  omega

/-- A run of lengths changes the entries of its range and no other (44 R145 to R148). -/
theorem fillLengths_getD (i : Nat) (v : BitVec 4) (rep : Nat) (ls : Vector (BitVec 4) 320) (j : Nat) (hj : j < 320) :
    (fillLengths i v rep ls).getD j 0#4 = if i ≤ j ∧ j < i + rep then v else ls.getD j 0#4 := by
  induction rep generalizing i ls with
  | zero => simp [fillLengths]
  | succ rep ih =>
    rw [fillLengths, ih]
    by_cases h1 : i + 1 ≤ j ∧ j < i + 1 + rep
    · rw [if_pos h1, if_pos (by omega)]
    · rw [if_neg h1]
      by_cases h2 : i = j
      · subst h2
        rw [if_pos (by omega)]
        simp [Vector.getD, hj]
      · rw [if_neg (by omega)]
        simp [Vector.getD, hj, h2]

/-- The counting of a stored byte: `COPY_REM`, and at 0 the phase after the block. -/
theorem countStored_eq (s : State) :
    countStored s =
      (s.setBlock { s.block with copyRem := s.block.copyRem - 1#16 }).setPhase
        (if s.block.copyRem - 1#16 = 0#16 then phaseAfterBlock s.block else s.control.phase) := by
  unfold countStored
  simp only
  split <;> rfl

/-- The building of a block's tables: both, or a fault. -/
theorem buildBlockTables_next {litlen dist : List Nat} {s t : State} (h : buildBlockTables litlen dist s = .next t) :
    t = (s.setTables { s.tables with tLl := tableOf 9 litlen, tD := tableOf 5 dist }).setPhase .symbol ∨
      t = takeFault .codeLengths s := by
  unfold buildBlockTables at h
  split at h
  · rename_i e h1
    cases build_error h1
    cases h
    exact .inr rfl
  · rename_i tLl h1
    split at h
    · rename_i e h2
      cases build_error h2
      cases h
      exact .inr rfl
    · rename_i tD h2
      cases h
      obtain ⟨rfl, -⟩ := build_ok h1
      obtain ⟨rfl, -⟩ := build_ok h2
      exact .inl rfl

end Sys2Proof.Machine
end

