-- ==== Sys2Proof/Laws/PerInstr.lean ====
section
/-! SUPPORT. Families proved per instruction. -/

namespace Sys2Proof.Laws

open Sys2Proof

/-- The bits of a table's code word are at most 15. -/
theorem length_symbolBits_le {w : Nat} (T : HuffTable w) (sym : BitVec w) :
    (symbolBits T sym).length ≤ 15 := by
  have hlen : ∀ n v, (fieldBits n v).length = n := by
    intro n
    induction n with
    | zero => intro v; rfl
    | succ n ih => intro v; simp [fieldBits, ih]
  have hcode : ∀ p k l first idx x, codeAtPosition T p k l first idx = some x → x.1 < l + k := by
    intro p k
    induction k with
    | zero => intro l first idx x h; simp [codeAtPosition] at h
    | succ k ih =>
      intro l first idx x h
      simp only [codeAtPosition] at h
      split at h
      · cases h; simp
      · have := ih _ _ _ x h; omega
  unfold symbolBits
  split
  · rename_i l code h
    unfold codeOf at h
    rw [Option.bind_eq_some_iff] at h
    obtain ⟨p, -, hp⟩ := h
    have := hcode p 15 1 0 0 _ hp
    simp only [codeWordBits, List.length_reverse, hlen]
    simp only at this
    omega
  · simp

/-- Every instruction's own bits fit 32, in every context (30_encoding R60): the fields of a fixed-width element
or one code word, without the pad and the extra bits. -/
def EncodingFits.Statement (i : Instr) : Prop := ∀ c : DecodeCtx, (encodeBits c i).length ≤ 32

/-- A code word fits. -/
theorem fits_symbol {w : Nat} (T : HuffTable w) (sym : BitVec w) : (symbolBits T sym).length ≤ 32 :=
  (length_symbolBits_le T sym).trans (by decide)

theorem EncodingFits.zhdr (cm cinfo : BitVec 4) (fcheck : BitVec 5) (fdict : BitVec 1) (flevel : BitVec 2) :
    EncodingFits.Statement (.zhdr cm cinfo fcheck fdict flevel) := fun _ => by simp [encodeBits, shape, fieldBits]
theorem EncodingFits.blockStored (bfinal : BitVec 1) :
    EncodingFits.Statement (.blockStored bfinal) := fun _ => by simp [encodeBits, shape, fieldBits]
theorem EncodingFits.blockFixed (bfinal : BitVec 1) :
    EncodingFits.Statement (.blockFixed bfinal) := fun _ => by simp [encodeBits, shape, fieldBits]
theorem EncodingFits.blockDynamic (bfinal : BitVec 1) :
    EncodingFits.Statement (.blockDynamic bfinal) := fun _ => by simp [encodeBits, shape, fieldBits]
theorem EncodingFits.blockReserved (bfinal : BitVec 1) :
    EncodingFits.Statement (.blockReserved bfinal) := fun _ => by simp [encodeBits, shape, fieldBits]
theorem EncodingFits.storedHdr (len nlen : BitVec 16) :
    EncodingFits.Statement (.storedHdr len nlen) := fun _ => by simp [encodeBits, shape, fieldBits]
theorem EncodingFits.storedByte (b : BitVec 8) :
    EncodingFits.Statement (.storedByte b) := fun _ => by simp [encodeBits, shape, fieldBits]
theorem EncodingFits.dynHdr (hlit hdist : BitVec 5) (hclen : BitVec 4) :
    EncodingFits.Statement (.dynHdr hlit hdist hclen) := fun _ => by simp [encodeBits, shape, fieldBits]
theorem EncodingFits.clen (v : BitVec 3) :
    EncodingFits.Statement (.clen v) := fun _ => by simp [encodeBits, shape, fieldBits]
theorem EncodingFits.adler32 (bHi bLo aHi aLo : BitVec 8) :
    EncodingFits.Statement (.adler32 bHi bLo aHi aLo) := fun _ => by simp [encodeBits, shape, fieldBits]
theorem EncodingFits.clLen (v : BitVec 4) : EncodingFits.Statement (.clLen v) := fun _ => fits_symbol _ _
theorem EncodingFits.cl16 : EncodingFits.Statement .cl16 := fun _ => fits_symbol _ _
theorem EncodingFits.cl17 : EncodingFits.Statement .cl17 := fun _ => fits_symbol _ _
theorem EncodingFits.cl18 : EncodingFits.Statement .cl18 := fun _ => fits_symbol _ _
theorem EncodingFits.lit (b : BitVec 8) : EncodingFits.Statement (.lit b) := fun _ => fits_symbol _ _
theorem EncodingFits.eob : EncodingFits.Statement .eob := fun _ => fits_symbol _ _
theorem EncodingFits.len257 : EncodingFits.Statement .len257 := fun _ => fits_symbol _ _
theorem EncodingFits.len258 : EncodingFits.Statement .len258 := fun _ => fits_symbol _ _
theorem EncodingFits.len259 : EncodingFits.Statement .len259 := fun _ => fits_symbol _ _
theorem EncodingFits.len260 : EncodingFits.Statement .len260 := fun _ => fits_symbol _ _
theorem EncodingFits.len261 : EncodingFits.Statement .len261 := fun _ => fits_symbol _ _
theorem EncodingFits.len262 : EncodingFits.Statement .len262 := fun _ => fits_symbol _ _
theorem EncodingFits.len263 : EncodingFits.Statement .len263 := fun _ => fits_symbol _ _
theorem EncodingFits.len264 : EncodingFits.Statement .len264 := fun _ => fits_symbol _ _
theorem EncodingFits.len265 : EncodingFits.Statement .len265 := fun _ => fits_symbol _ _
theorem EncodingFits.len266 : EncodingFits.Statement .len266 := fun _ => fits_symbol _ _
theorem EncodingFits.len267 : EncodingFits.Statement .len267 := fun _ => fits_symbol _ _
theorem EncodingFits.len268 : EncodingFits.Statement .len268 := fun _ => fits_symbol _ _
theorem EncodingFits.len269 : EncodingFits.Statement .len269 := fun _ => fits_symbol _ _
theorem EncodingFits.len270 : EncodingFits.Statement .len270 := fun _ => fits_symbol _ _
theorem EncodingFits.len271 : EncodingFits.Statement .len271 := fun _ => fits_symbol _ _
theorem EncodingFits.len272 : EncodingFits.Statement .len272 := fun _ => fits_symbol _ _
theorem EncodingFits.len273 : EncodingFits.Statement .len273 := fun _ => fits_symbol _ _
theorem EncodingFits.len274 : EncodingFits.Statement .len274 := fun _ => fits_symbol _ _
theorem EncodingFits.len275 : EncodingFits.Statement .len275 := fun _ => fits_symbol _ _
theorem EncodingFits.len276 : EncodingFits.Statement .len276 := fun _ => fits_symbol _ _
theorem EncodingFits.len277 : EncodingFits.Statement .len277 := fun _ => fits_symbol _ _
theorem EncodingFits.len278 : EncodingFits.Statement .len278 := fun _ => fits_symbol _ _
theorem EncodingFits.len279 : EncodingFits.Statement .len279 := fun _ => fits_symbol _ _
theorem EncodingFits.len280 : EncodingFits.Statement .len280 := fun _ => fits_symbol _ _
theorem EncodingFits.len281 : EncodingFits.Statement .len281 := fun _ => fits_symbol _ _
theorem EncodingFits.len282 : EncodingFits.Statement .len282 := fun _ => fits_symbol _ _
theorem EncodingFits.len283 : EncodingFits.Statement .len283 := fun _ => fits_symbol _ _
theorem EncodingFits.len284 : EncodingFits.Statement .len284 := fun _ => fits_symbol _ _
theorem EncodingFits.len285 : EncodingFits.Statement .len285 := fun _ => fits_symbol _ _
theorem EncodingFits.litlen286Reserved : EncodingFits.Statement .litlen286Reserved := fun _ => fits_symbol _ _
theorem EncodingFits.litlen287Reserved : EncodingFits.Statement .litlen287Reserved := fun _ => fits_symbol _ _
theorem EncodingFits.dist0 : EncodingFits.Statement .dist0 := fun _ => fits_symbol _ _
theorem EncodingFits.dist1 : EncodingFits.Statement .dist1 := fun _ => fits_symbol _ _
theorem EncodingFits.dist2 : EncodingFits.Statement .dist2 := fun _ => fits_symbol _ _
theorem EncodingFits.dist3 : EncodingFits.Statement .dist3 := fun _ => fits_symbol _ _
theorem EncodingFits.dist4 : EncodingFits.Statement .dist4 := fun _ => fits_symbol _ _
theorem EncodingFits.dist5 : EncodingFits.Statement .dist5 := fun _ => fits_symbol _ _
theorem EncodingFits.dist6 : EncodingFits.Statement .dist6 := fun _ => fits_symbol _ _
theorem EncodingFits.dist7 : EncodingFits.Statement .dist7 := fun _ => fits_symbol _ _
theorem EncodingFits.dist8 : EncodingFits.Statement .dist8 := fun _ => fits_symbol _ _
theorem EncodingFits.dist9 : EncodingFits.Statement .dist9 := fun _ => fits_symbol _ _
theorem EncodingFits.dist10 : EncodingFits.Statement .dist10 := fun _ => fits_symbol _ _
theorem EncodingFits.dist11 : EncodingFits.Statement .dist11 := fun _ => fits_symbol _ _
theorem EncodingFits.dist12 : EncodingFits.Statement .dist12 := fun _ => fits_symbol _ _
theorem EncodingFits.dist13 : EncodingFits.Statement .dist13 := fun _ => fits_symbol _ _
theorem EncodingFits.dist14 : EncodingFits.Statement .dist14 := fun _ => fits_symbol _ _
theorem EncodingFits.dist15 : EncodingFits.Statement .dist15 := fun _ => fits_symbol _ _
theorem EncodingFits.dist16 : EncodingFits.Statement .dist16 := fun _ => fits_symbol _ _
theorem EncodingFits.dist17 : EncodingFits.Statement .dist17 := fun _ => fits_symbol _ _
theorem EncodingFits.dist18 : EncodingFits.Statement .dist18 := fun _ => fits_symbol _ _
theorem EncodingFits.dist19 : EncodingFits.Statement .dist19 := fun _ => fits_symbol _ _
theorem EncodingFits.dist20 : EncodingFits.Statement .dist20 := fun _ => fits_symbol _ _
theorem EncodingFits.dist21 : EncodingFits.Statement .dist21 := fun _ => fits_symbol _ _
theorem EncodingFits.dist22 : EncodingFits.Statement .dist22 := fun _ => fits_symbol _ _
theorem EncodingFits.dist23 : EncodingFits.Statement .dist23 := fun _ => fits_symbol _ _
theorem EncodingFits.dist24 : EncodingFits.Statement .dist24 := fun _ => fits_symbol _ _
theorem EncodingFits.dist25 : EncodingFits.Statement .dist25 := fun _ => fits_symbol _ _
theorem EncodingFits.dist26 : EncodingFits.Statement .dist26 := fun _ => fits_symbol _ _
theorem EncodingFits.dist27 : EncodingFits.Statement .dist27 := fun _ => fits_symbol _ _
theorem EncodingFits.dist28 : EncodingFits.Statement .dist28 := fun _ => fits_symbol _ _
theorem EncodingFits.dist29 : EncodingFits.Statement .dist29 := fun _ => fits_symbol _ _
theorem EncodingFits.dist30Reserved : EncodingFits.Statement .dist30Reserved := fun _ => fits_symbol _ _
theorem EncodingFits.dist31Reserved : EncodingFits.Statement .dist31Reserved := fun _ => fits_symbol _ _
theorem EncodingFits.fixedLl256To271 (x : BitVec 4) :
    EncodingFits.Statement (.fixedLl256To271 x) := fun _ => by simp [encodeBits, shape, fieldBits, codeWordBits]
theorem EncodingFits.fixedLl272To279 (x : BitVec 3) :
    EncodingFits.Statement (.fixedLl272To279 x) := fun _ => by simp [encodeBits, shape, fieldBits, codeWordBits]
theorem EncodingFits.fixedLl0To15 (x : BitVec 4) :
    EncodingFits.Statement (.fixedLl0To15 x) := fun _ => by simp [encodeBits, shape, fieldBits, codeWordBits]
theorem EncodingFits.fixedLl16To79 (x : BitVec 6) :
    EncodingFits.Statement (.fixedLl16To79 x) := fun _ => by simp [encodeBits, shape, fieldBits, codeWordBits]
theorem EncodingFits.fixedLl80To143 (x : BitVec 6) :
    EncodingFits.Statement (.fixedLl80To143 x) := fun _ => by simp [encodeBits, shape, fieldBits, codeWordBits]
theorem EncodingFits.fixedLl280To287 (x : BitVec 3) :
    EncodingFits.Statement (.fixedLl280To287 x) := fun _ => by simp [encodeBits, shape, fieldBits, codeWordBits]
theorem EncodingFits.fixedLl144To159 (x : BitVec 4) :
    EncodingFits.Statement (.fixedLl144To159 x) := fun _ => by simp [encodeBits, shape, fieldBits, codeWordBits]
theorem EncodingFits.fixedLl160To191 (x : BitVec 5) :
    EncodingFits.Statement (.fixedLl160To191 x) := fun _ => by simp [encodeBits, shape, fieldBits, codeWordBits]
theorem EncodingFits.fixedLl192To255 (x : BitVec 6) :
    EncodingFits.Statement (.fixedLl192To255 x) := fun _ => by simp [encodeBits, shape, fieldBits, codeWordBits]
theorem EncodingFits.fixedD0To31 (x : BitVec 5) :
    EncodingFits.Statement (.fixedD0To31 x) := fun _ => by simp [encodeBits, shape, fieldBits, codeWordBits]

end Sys2Proof.Laws
end

