-- ==== Sys2Proof/Tests/Slice0.lean ====
section
/-! SUPPORT. Tests: ill-formed terms, every constructor's decoding, one step of each instruction with expected values
from spec/ (the source of each stands beside it), and a witness for every statement that has hypotheses. -/

namespace Sys2Proof.Tests

open Sys2Proof Sys2Proof.Machine Sys2Proof.Abstract

set_option Elab.async false

/-- The next state of an outcome. -/
def nextOf : Outcome → Option State
  | .next t => some t
  | .fault _ => none
  | .refused _ => none

/-- A running engine at bit `pos` of `bytes`, with `out` already written and room up to `expected` bytes. -/
def sample (p : Phase) (bytes : List Byte) (pos : Nat) (out : List Byte) (expected : Nat) : State :=
  let l : Launch :=
    { inMem := memWriteBytes [] 0 bytes, inLen := BitVec.ofNat 32 bytes.length
      expectedLen := BitVec.ofNat 32 expected, cfg := 0#2 }
  { State.reset with
    launch := l
    reader := readerAt l pos
    control := { phase := p, status := .busy, err := .none }
    out := { outMem := out.zipIdx.map fun c => (c.2, c.1), outPos := BitVec.ofNat 32 out.length }
    adler := out.foldl adlerStep { a := 1#16, b := 0#16 } }

/-- The same with other dynamic-header registers. -/
def withDyn (s : State) (hlit hdist : BitVec 5) (hclen : BitVec 4) (clIdx : BitVec 5) (lenIdx : BitVec 9) : State :=
  { s with dyn := { s.dyn with hlit := hlit, hdist := hdist, hclen := hclen, clIdx := clIdx, lenIdx := lenIdx } }

/-- A distance symbol's sample: `OUT_POS` is `pos`, the byte 0xAB stands at address 0, a match of length 1 is pending,
and the next bits are the extra field. -/
def farSample (extra pos : Nat) : State :=
  let s := sample .symbol [BitVec.ofNat 8 extra, BitVec.ofNat 8 (extra / 256)] 0 [] 40000
  { s with out := { outMem := [(0, 0xAB#8)], outPos := BitVec.ofNat 32 pos }, matchLen := some 1#9 }

/-- The contexts of the symbol loop, with the fixed code in both tables. -/
def symCtx (btype : BitVec 2) (pending : Bool) : DecodeCtx :=
  { idleCtx with
    phase := .symbol, btype := btype, matchPending := pending
    tLl := tableOf 9 fixedLitlenLengths, tD := tableOf 5 fixedDistLengths }

/-- The context of the code-length loop, with 19 symbols of 5 bits. -/
def clCtx : DecodeCtx :=
  { idleCtx with phase := .dynLengths, tCl := tableOf 5 (List.replicate 19 5) }

/-! ### Ill-formed terms, one for each check -/

theorem test_wf_accepts_word : wellFormed { idleCtx with phase := .zhdr } (.zhdr 8 7 1 0 0) = true := by decide
theorem test_wf_refuses_wrong_phase : wellFormed { idleCtx with phase := .blockHdr } (.zhdr 8 7 1 0 0) = false := by
  decide
theorem test_wf_refuses_cl_symbol_elsewhere : wellFormed { clCtx with phase := .symbol } .cl16 = false := by decide
theorem test_wf_refuses_literal_where_a_distance_is_due : wellFormed (symCtx 2#2 true) (.lit 0) = false := by
  decide +kernel
theorem test_wf_refuses_literal_in_fixed_block : wellFormed (symCtx 1#2 false) (.lit 0) = false := by decide +kernel
theorem test_wf_refuses_distance_without_length : wellFormed (symCtx 2#2 false) .dist0 = false := by decide +kernel
theorem test_wf_refuses_distance_in_fixed_block : wellFormed (symCtx 1#2 true) .dist0 = false := by decide +kernel
theorem test_wf_refuses_fixed_row_in_dynamic_block : wellFormed (symCtx 2#2 false) (.fixedLl0To15 0) = false := by
  decide +kernel
theorem test_wf_refuses_fixed_distance_without_length : wellFormed (symCtx 1#2 false) (.fixedD0To31 0) = false := by
  decide +kernel
theorem test_wf_refuses_symbol_without_code :
    wellFormed { clCtx with tCl := tableOf 5 [1, 1] } .cl16 = false := by decide +kernel
theorem test_wf_refuses_literal_without_code :
    wellFormed { symCtx 2#2 false with tLl := emptyTable 9 } (.lit 0) = false := by decide +kernel
theorem test_wf_refuses_distance_without_code :
    wellFormed { symCtx 2#2 true with tD := tableOf 5 [1] } .dist1 = false := by decide +kernel
/-- 41 R104: with lengths `1, 1, 1` symbol 2's code does not fit. -/
theorem test_wf_refuses_code_that_does_not_fit :
    wellFormed { clCtx with tCl := tableOf 5 [1, 1, 1] } (.clLen 2) = false := by decide +kernel
theorem test_wf_refuses_fixed_row_with_other_table :
    wellFormed { symCtx 1#2 false with tLl := emptyTable 9 } (.fixedLl0To15 0) = false := by decide +kernel
theorem test_wf_refuses_fixed_distance_with_other_table :
    wellFormed { symCtx 1#2 true with tD := emptyTable 5 } (.fixedD0To31 0) = false := by decide +kernel

/-! ### The fixed-width formats -/

/-- 46 R241 `78 01`; R245 `88 1C`; R244 `78 20`; 30 R61 for `79 C1`: `FLEVEL` is the top two bits. -/
theorem test_decode_zhdr :
    decode { idleCtx with phase := .zhdr } [0x78#8, 0x01#8] = .ok (.zhdr 8 7 1 0 0, 16) ∧
    decode { idleCtx with phase := .zhdr } [0x88#8, 0x1C#8] = .ok (.zhdr 8 8 0x1C 0 0, 16) ∧
    decode { idleCtx with phase := .zhdr } [0x78#8, 0x20#8] = .ok (.zhdr 8 7 0 1 0, 16) ∧
    decode { idleCtx with phase := .zhdr } [0x79#8, 0xC1#8] = .ok (.zhdr 9 7 1 0 3, 16) := by decide +kernel

/-- 43 R120: `01` and `4B`; 30 R62 for the other types: `BFINAL` is bit 0, `BTYPE` bits 2:1. -/
theorem test_decode_block :
    decode { idleCtx with phase := .blockHdr } [0x01#8] = .ok (.blockStored 1, 3) ∧
    decode { idleCtx with phase := .blockHdr } [0x4B#8] = .ok (.blockFixed 1, 3) ∧
    decode { idleCtx with phase := .blockHdr } [0x04#8] = .ok (.blockDynamic 0, 3) ∧
    decode { idleCtx with phase := .blockHdr } [0x06#8] = .ok (.blockReserved 0, 3) := by decide +kernel

/-- 43 R125: `05 00 FA FF`; any byte is a stored byte. -/
theorem test_decode_stored :
    decode { idleCtx with phase := .storedHdr } [0x05#8, 0x00#8, 0xFA#8, 0xFF#8] =
      .ok (.storedHdr 5 0xFFFA, 32) ∧
    decode { idleCtx with phase := .storedCopy } [0x48#8] = .ok (.storedByte 0x48, 8) := by decide +kernel

/-- 44 R140: `10000 10000 0111` is `HLIT` 1, `HDIST` 1, `HCLEN` 14; 30 R65: three bits. -/
theorem test_decode_dyn_hdr_clen :
    decode { idleCtx with phase := .dynHdr } [0x21#8, 0x38#8] = .ok (.dynHdr 1 1 14, 14) ∧
    decode { idleCtx with phase := .dynClen } [0x06#8] = .ok (.clen 6, 3) := by decide +kernel

/-- 46 R248: `05 8C 01 F5`. -/
theorem test_decode_adler32 :
    decode { idleCtx with phase := .trailer } [0x05#8, 0x8C#8, 0x01#8, 0xF5#8] =
      .ok (.adler32 0x05 0x8C 0x01 0xF5, 32) := by decide +kernel

/-- The decoder's refusals, by name: 40 R91, 42 R112 (an empty table), 10_state R15. -/
theorem test_decode_refuses :
    decode { idleCtx with phase := .zhdr } [0x78#8] = .error .inputExhausted ∧
    decode { clCtx with tCl := emptyTable 5 } [0#8, 0#8] = .error .huffmanOverrun ∧
    decode idleCtx [0x78#8, 0x01#8] = .error .noElement := by decide +kernel

/-! ### Every constructor's decoding: words written out from the spec's bit patterns -/

/-- 30 R66, R71 with R81 for the symbols of a table whose codes are the fixed code's: the code words of R170 to R198. -/
theorem test_decode_length_symbols :
    ∀ p ∈ [([0x40#8], 7, Instr.len257), ([0x20#8], 7, Instr.len258), ([0x60#8], 7, Instr.len259),
      ([0x10#8], 7, Instr.len260), ([0x50#8], 7, Instr.len261), ([0x30#8], 7, Instr.len262),
      ([0x70#8], 7, Instr.len263), ([0x08#8], 7, Instr.len264), ([0x48#8], 7, Instr.len265),
      ([0x28#8], 7, Instr.len266), ([0x68#8], 7, Instr.len267), ([0x18#8], 7, Instr.len268),
      ([0x58#8], 7, Instr.len269), ([0x38#8], 7, Instr.len270), ([0x78#8], 7, Instr.len271),
      ([0x04#8], 7, Instr.len272), ([0x44#8], 7, Instr.len273), ([0x24#8], 7, Instr.len274),
      ([0x64#8], 7, Instr.len275), ([0x14#8], 7, Instr.len276), ([0x54#8], 7, Instr.len277),
      ([0x34#8], 7, Instr.len278), ([0x74#8], 7, Instr.len279), ([0x03#8], 8, Instr.len280),
      ([0x83#8], 8, Instr.len281), ([0x43#8], 8, Instr.len282), ([0xC3#8], 8, Instr.len283),
      ([0x23#8], 8, Instr.len284), ([0xA3#8], 8, Instr.len285)],
      decode (symCtx 2#2 false) p.1 = .ok (p.2.2, p.2.1) := by decide +kernel

/-- 30 R72: the code words of R200 to R229. -/
theorem test_decode_distance_symbols :
    ∀ p ∈ [([0x00#8], Instr.dist0), ([0x10#8], Instr.dist1), ([0x08#8], Instr.dist2), ([0x18#8], Instr.dist3),
      ([0x04#8], Instr.dist4), ([0x14#8], Instr.dist5), ([0x0C#8], Instr.dist6), ([0x1C#8], Instr.dist7),
      ([0x02#8], Instr.dist8), ([0x12#8], Instr.dist9), ([0x0A#8], Instr.dist10), ([0x1A#8], Instr.dist11),
      ([0x06#8], Instr.dist12), ([0x16#8], Instr.dist13), ([0x0E#8], Instr.dist14), ([0x1E#8], Instr.dist15),
      ([0x01#8], Instr.dist16), ([0x11#8], Instr.dist17), ([0x09#8], Instr.dist18), ([0x19#8], Instr.dist19),
      ([0x05#8], Instr.dist20), ([0x15#8], Instr.dist21), ([0x0D#8], Instr.dist22), ([0x1D#8], Instr.dist23),
      ([0x03#8], Instr.dist24), ([0x13#8], Instr.dist25), ([0x0B#8], Instr.dist26), ([0x1B#8], Instr.dist27),
      ([0x07#8], Instr.dist28), ([0x17#8], Instr.dist29), ([0x0F#8], .dist30Reserved),
      ([0x1F#8], .dist31Reserved)],
      decode (symCtx 2#2 true) p.1 = .ok (p.2, 5) := by decide +kernel

/-- 45 R161, R162, R165: `10010001` is the literal `a`, `110010000` the literal 144, `0000000` is EOB, `11000110` and
`11000111` the reserved symbols. -/
theorem test_decode_literal_eob_reserved :
    ∀ p ∈ [([0x89#8], 8, Instr.lit 0x61), ([0x0C#8], 8, .lit 0), ([0x13#8, 0x00#8], 9, .lit 144),
      ([0xFF#8, 0x01#8], 9, .lit 255), ([0x00#8], 7, .eob), ([0x63#8], 8, .litlen286Reserved),
      ([0xE3#8], 8, .litlen287Reserved)],
      decode (symCtx 2#2 false) p.1 = .ok (p.2.2, p.2.1) := by decide +kernel

/-- 30 R71: the first and the last word of each row of the fixed code. -/
theorem test_decode_fixed_rows :
    ∀ p ∈ [([0x00#8], 7, Instr.fixedLl256To271 0), ([0x78#8], 7, .fixedLl256To271 15),
      ([0x04#8], 7, .fixedLl272To279 0), ([0x74#8], 7, .fixedLl272To279 7), ([0x0C#8], 8, .fixedLl0To15 0),
      ([0xFC#8], 8, .fixedLl0To15 15), ([0x02#8], 8, .fixedLl16To79 0), ([0xFE#8], 8, .fixedLl16To79 63),
      ([0x01#8], 8, .fixedLl80To143 0), ([0xFD#8], 8, .fixedLl80To143 63), ([0x03#8], 8, .fixedLl280To287 0),
      ([0xE3#8], 8, .fixedLl280To287 7), ([0x13#8, 0x00#8], 9, .fixedLl144To159 0),
      ([0xF3#8, 0x01#8], 9, .fixedLl144To159 15), ([0x0B#8, 0x00#8], 9, .fixedLl160To191 0),
      ([0xFB#8, 0x01#8], 9, .fixedLl160To191 31), ([0x07#8, 0x00#8], 9, .fixedLl192To255 0),
      ([0xFF#8, 0x01#8], 9, .fixedLl192To255 63)],
      decode (symCtx 1#2 false) p.1 = .ok (p.2.2, p.2.1) := by decide +kernel

/-- 30 R72: `00010` and `11111` in a fixed block. -/
theorem test_decode_fixed_distance_row :
    decode (symCtx 1#2 true) [0x08#8] = .ok (.fixedD0To31 2, 5) ∧
      decode (symCtx 1#2 true) [0x1F#8] = .ok (.fixedD0To31 31, 5) := by decide +kernel

/-- 44 R145 to R148: with 19 symbols of 5 bits the code of symbol `s` is `s` (41 R103), most significant bit first. -/
theorem test_decode_code_length_symbols :
    ∀ p ∈ [([0x00#8], Instr.clLen 0), ([0x10#8], Instr.clLen 1), ([0x08#8], Instr.clLen 2),
      ([0x18#8], Instr.clLen 3), ([0x04#8], Instr.clLen 4), ([0x14#8], Instr.clLen 5),
      ([0x0C#8], Instr.clLen 6), ([0x1C#8], Instr.clLen 7), ([0x02#8], Instr.clLen 8),
      ([0x12#8], Instr.clLen 9), ([0x0A#8], Instr.clLen 10), ([0x1A#8], Instr.clLen 11),
      ([0x06#8], Instr.clLen 12), ([0x16#8], Instr.clLen 13), ([0x0E#8], Instr.clLen 14),
      ([0x1E#8], Instr.clLen 15), ([0x01#8], .cl16), ([0x11#8], .cl17), ([0x09#8], .cl18)],
      decode clCtx p.1 = .ok (p.2, 5) := by decide +kernel

/-- Words of spec/opcode_table.json as it numbers them: the two bytes of `ZHDR 78 01`, the block types, symbol rows by
the symbol, fixed rows by the code value. -/
theorem test_decode_table_words :
    decodeTableWord 16 0x0178 = some (.zhdr 8 7 1 0 0) ∧ decodeTableWord 8 2 = some (.blockFixed 0) ∧
    decodeTableWord 8 16 = some .cl16 ∧ decodeTableWord 16 257 = some .len257 ∧
    decodeTableWord 8 192 = some (.fixedLl280To287 0) ∧ decodeTableWord 16 400 = some (.fixedLl144To159 0) ∧
    decodeTableWord 32 0xFFFA0005 = some (.storedHdr 5 0xFFFA) := by decide +kernel

/-- A table word placed after reset is what the next step runs: `BLOCK` of type 1 (43 R120). -/
theorem test_with_fetch_word_runs_block :
    (nextOf (step (State.reset.withFetchWord 8 2))).map (fun t => (t.control.phase, t.block.bfinal, t.reader.bitCount)) =
      some (.fixedSetup, 0#1, 5#6) := by decide +kernel

/-! ### The bit reader and BUILD -/

/-- The bytes of 95 V10: `B5 3C F0 0F AA`. -/
def v10 : Launch := (sample .zhdr [0xB5#8, 0x3C#8, 0xF0#8, 0x0F#8, 0xAA#8] 0 [] 0).launch

/-- 95 V10, 40 R91: `READ(3)` gives 5 and leaves 5 bits, `0x16`; across bytes `READ(12)` gives `0xF03`. -/
theorem test_read_examples :
    readBits v10 3 (readerAt v10 0) = .ok (5, { bytePos := 1#32, bitBuf := 0x16#64, bitCount := 5#6 }) ∧
    readBits v10 12 (readerAt v10 12) = .ok (0xF03, { bytePos := 3#32, bitBuf := 0#64, bitCount := 0#6 }) ∧
    readBits v10 1 (readerAt v10 40) = .error (.raise .inputExhausted) := by decide +kernel

/-- 95 V13: ALIGN after `READ(3)` drops 5 bits; aligned, it drops none. -/
theorem test_align_examples :
    alignReader (readerAt v10 3) = { bytePos := 1#32, bitBuf := 0#64, bitCount := 0#6 } ∧
    alignReader (readerAt v10 8) = readerAt v10 8 := by decide +kernel

/-- 95 V20: the table of `3,3,3,3,3,2,4,4` and its codes; DECODE of `1110` (42 R111). -/
theorem test_build_v20 :
    (tableOf 5 [3, 3, 3, 3, 3, 2, 4, 4]).symbols = [5, 0, 1, 2, 3, 4, 6, 7] ∧
    codeOf (tableOf 5 [3, 3, 3, 3, 3, 2, 4, 4]) 6 = some (4, 14) ∧
    (decodeProg (tableOf 5 [3, 3, 3, 3, 3, 2, 4, 4])).runBits 0 [true, true, true, false] = .ok (6, 4) := by
  decide +kernel

/-- 95 V23, V24: over-subscribed only a strict BUILD fails; incomplete neither does; 42 R114: bit 1 gives symbol 1. -/
theorem test_build_strictness :
    buildTable 5 true [1, 1, 1] = none ∧ (buildTable 5 false [1, 1, 1]).isSome = true ∧
    (buildTable 5 true [0, 1]).isSome = true ∧ buildTable 5 false [16] = none ∧
    (decodeProg (tableOf 5 [1, 1, 1])).runBits 0 [true] = .ok (1, 1) := by decide +kernel

/-! ### One step of each instruction -/

/-- 46 R241 `78 01` passes; R242 `77 09`; R243 `78 02`; R244 `78 20`. -/
theorem test_zhdr_checks :
    ([[0x78#8, 0x01#8], [0x77#8, 0x09#8], [0x78#8, 0x02#8], [0x78#8, 0x20#8]].map fun b =>
      (nextOf (step (sample .zhdr b 0 [] 0))).map fun t => (t.control.phase, t.control.err)) =
    [some (.blockHdr, .none), some (.fault, .zlibMethod), some (.fault, .zlibFcheck), some (.fault, .zlibFdict)] := by
  decide +kernel

/-- 43 R120, R122: the four types with `BFINAL` 1. -/
theorem test_block_types :
    ([[0x01#8], [0x03#8], [0x05#8], [0x07#8]].map fun b =>
      (nextOf (step (sample .blockHdr b 0 [] 0))).map fun t => (t.control.phase, t.control.err)) =
    [some (.storedHdr, .none), some (.fixedSetup, .none), some (.dynHdr, .none), some (.fault, .btypeReserved)] := by
  decide +kernel

/-- 43 R125: the header after 3 bits of a byte starts at the next byte; R128: an empty block ends at once. -/
theorem test_stored_hdr :
    (nextOf (step (sample .storedHdr [0x01#8, 0x05#8, 0x00#8, 0xFA#8, 0xFF#8] 3 [] 5))).map
      (fun t => (t.control.phase, t.block.copyRem, t.block.nlen, t.reader.bytePos)) =
      some (.storedCopy, 5#16, 0xFFFA#16, 5#32) ∧
    (nextOf (exec (.storedHdr 0 0xFFFF) (sample .storedHdr [] 0 [] 5))).map (·.control.phase) = some .blockHdr := by
  decide +kernel

/-- 43 R126, 95 V53: strict, a wrong `NLEN` is a fault. -/
theorem test_stored_hdr_strict :
    (nextOf (exec (.storedHdr 5 0xFF00)
      { sample .storedHdr [] 0 [] 5 with launch := { (sample .storedHdr [] 0 [] 5).launch with cfg := 1#2 } })).map
      (·.control.err) = some .storedNlen := by decide +kernel

/-- 43 R127 and 46 R251 (95 V1, `H`): the byte, the checksum `a = b = 73`, the end of the block at `COPY_REM` 0. -/
theorem test_stored_byte :
    (nextOf (step { sample .storedCopy [0x48#8] 0 [] 5 with
      block := { State.reset.block with copyRem := 1#16, bfinal := 1#1 } })).map
      (fun t => (t.out.outMem, t.adler, t.control.phase, t.block.copyRem)) =
    some ([(0, 0x48#8)], { a := 73#16, b := 73#16 }, .endCheck, 0#16) := by decide +kernel

/-- 44 R140. -/
theorem test_dyn_hdr :
    (nextOf (exec (.dynHdr 1 1 14) (sample .dynHdr [] 0 [] 0))).map
      (fun t => (nLl t.dyn, nD t.dyn, nCode t.dyn, t.dyn.clIdx, t.control.phase)) =
    some (258, 2, 18, 0#5, .dynClen) := by decide +kernel

/-- 44 R142: the first field is symbol 16's; the last of four builds `T_CL`. -/
theorem test_clen :
    (nextOf (exec (.clen 1) (sample .dynClen [] 0 [] 0))).map
      (fun t => (t.dyn.clLengths.getD 16 0, t.dyn.clIdx, t.control.phase)) = some (1#3, 1#5, .dynClen) ∧
    (nextOf (exec (.clen 1) (withDyn (sample .dynClen [] 0 [] 0) 0 0 0 3 7))).map
      (fun t => (t.tables.tCl.symbols, t.dyn.lenIdx, t.control.phase)) = some ([0#5], 0#9, .dynLengths) := by
  decide +kernel

/-- 44 R145: symbol 3 at `LEN_IDX` 256. -/
theorem test_cl_len :
    (nextOf (exec (.clLen 3) (withDyn (sample .dynLengths [] 0 [] 0) 0 0 0 0 256))).map
      (fun t => (t.dyn.lengths.getD 256 0, t.dyn.lenIdx, t.control.phase)) = some (3#4, 257#9, .dynLengths) := by
  decide +kernel

/-- 44 R146: after `CL_LEN 8`, extra bits `11` write six more 8s; as the first symbol a fault. -/
theorem test_cl_16 :
    ((nextOf (exec (.clLen 8) (sample .dynLengths [0x03#8] 0 [] 0))).bind fun t => nextOf (exec .cl16 t)).map
      (fun t => (t.dyn.lengths.toList.take 8, t.dyn.lenIdx)) = some ([8, 8, 8, 8, 8, 8, 8, 0], 7#9) ∧
    (nextOf (exec .cl16 (sample .dynLengths [] 0 [] 0))).map (·.control.err) = some .repeatNoPrev := by
  decide +kernel

/-- 44 R147: extra bits `000` write three zeros; R149: one past the end is a fault. -/
theorem test_cl_17 :
    (nextOf (exec .cl17 (sample .dynLengths [0x00#8] 0 [] 0))).map (fun t => t.dyn.lenIdx) = some 3#9 ∧
    (nextOf (exec .cl17 (withDyn (sample .dynLengths [0x00#8] 0 [] 0) 0 0 0 0 256))).map (·.control.err) =
      some .repeatOverflow := by decide +kernel

/-- 44 R148: extra field 54 writes 65 zeros; exactly reaching the end starts the build. -/
theorem test_cl_18 :
    (nextOf (exec .cl18 (sample .dynLengths [54#8] 0 [] 0))).map (fun t => t.dyn.lenIdx) = some 65#9 ∧
    (nextOf (exec .cl18 (withDyn (sample .dynLengths [54#8] 0 [] 0) 0 0 0 0 193))).map (·.control.phase) =
      some .dynBuild := by decide +kernel

/-- 45 R161; 20 R47: a full output is a fault. -/
theorem test_lit :
    (nextOf (exec (.lit 0x61) (sample .symbol [] 0 [0x62#8] 2))).map (fun t => (t.out.outMem, t.out.outPos)) =
      some ([(0, 0x62#8), (1, 0x61#8)], 2#32) ∧
    (nextOf (exec (.lit 0x61) (sample .symbol [] 0 [0x62#8] 1))).map (·.control.err) = some .sizeMismatch := by
  decide +kernel

/-- 45 R162, 43 R123. -/
theorem test_eob :
    (nextOf (exec .eob (sample .symbol [] 0 [] 0))).map (·.control.phase) = some .blockHdr := by decide +kernel

/-- 45 R165, R166. -/
theorem test_reserved_symbols :
    ([Instr.litlen286Reserved, .litlen287Reserved, .dist30Reserved, .dist31Reserved].map fun i =>
      (nextOf (exec i (sample .symbol [] 0 [] 0))).map (·.control.err)) =
    [some .litlenSymbol, some .litlenSymbol, some .distSymbol, some .distSymbol] := by decide +kernel

/-- A whole match in one step (45 R163): after `abc`, `0000100 00010` (LEN260, DIST2) in a fixed block appends
`abcabc`. -/
theorem test_match_in_one_step :
    (nextOf (step { sample .symbol [0x10#8, 0x04#8] 0 [0x61#8, 0x62#8, 0x63#8] 9 with
      block := { State.reset.block with btype := 1#2 }
      tables := { State.reset.tables with tLl := tableOf 9 fixedLitlenLengths, tD := tableOf 5 fixedDistLengths } })).map
      (fun t => (t.out.outMem.map Prod.snd, t.matchLen, t.bitpos)) =
    some ([0x61#8, 0x62#8, 0x63#8, 0x61#8, 0x62#8, 0x63#8, 0x61#8, 0x62#8, 0x63#8], none, 12) := by decide +kernel

/-- 45 R164: distance 1 and length 4 repeat the preceding byte. -/
theorem test_overlap_copy :
    (nextOf (exec .dist0 { sample .symbol [] 0 [0x61#8, 0x62#8] 9 with matchLen := some 4#9 })).map
      (fun t => t.out.outMem.map Prod.snd) = some [0x61#8, 0x62#8, 0x62#8, 0x62#8, 0x62#8, 0x62#8] := by
  decide +kernel

/-- 30 R71, R72: the rows of the fixed code do what their symbols do. -/
theorem test_fixed_literal_rows :
    ([Instr.fixedLl0To15 3, .fixedLl16To79 3, .fixedLl80To143 3, .fixedLl144To159 3, .fixedLl160To191 3,
      .fixedLl192To255 3].map fun i =>
      (nextOf (exec i (sample .symbol [] 0 [] 9))).map fun t => t.out.outMem) =
    [some [(0, 3#8)], some [(0, 19#8)], some [(0, 83#8)], some [(0, 147#8)], some [(0, 163#8)], some [(0, 195#8)]] := by
  decide +kernel

/-- 30 R71: `EOB`, symbol 271 with extra field 1, symbol 279 with 14, symbols 280 and 285, symbol 286. -/
theorem test_fixed_length_rows :
    (nextOf (exec (.fixedLl256To271 0) (sample .symbol [] 0 [] 9))).map (·.control.phase) = some .blockHdr ∧
    (nextOf (exec (.fixedLl256To271 15) (sample .symbol [1#8] 0 [] 9))).map (·.matchLen) = some (some 28#9) ∧
    (nextOf (exec (.fixedLl272To279 7) (sample .symbol [14#8] 0 [] 9))).map (·.matchLen) = some (some 113#9) ∧
    (nextOf (exec (.fixedLl280To287 5) (sample .symbol [0#8] 0 [] 9))).map (·.matchLen) = some (some 258#9) ∧
    (nextOf (exec (.fixedLl280To287 6) (sample .symbol [0#8] 0 [] 9))).map (·.control.err) = some .litlenSymbol := by
  decide +kernel

/-- 30 R72: symbol 4 with extra field 1 is distance 6; symbol 30 is a fault. -/
theorem test_fixed_distance_row :
    (nextOf (exec (.fixedD0To31 4) (farSample 1 6))).map (fun t => memRead t.out.outMem 6) = some (some 0xAB#8) ∧
    (nextOf (exec (.fixedD0To31 30) (farSample 1 6))).map (·.control.err) = some .distSymbol := by decide +kernel

/-- 46 R248, 95 V1: after `Hello` the trailer `05 8C 01 F5` is right, `05 91 01 F6` is not (95 V2). -/
theorem test_adler32 :
    (nextOf (exec (.adler32 0x05 0x8C 0x01 0xF5) (sample .trailer [] 0 [0x48, 0x65, 0x6C, 0x6C, 0x6F] 5))).map
      (·.control) = some { phase := .done, status := .done, err := .none } ∧
    (nextOf (exec (.adler32 0x05 0x91 0x01 0xF6) (sample .trailer [] 0 [0x48, 0x65, 0x6C, 0x6C, 0x6F] 5))).map
      (·.control.err) = some .adlerMismatch := by decide +kernel

/-- 46 R247: one byte short is a fault. -/
theorem test_end_check :
    (nextOf (step (sample .endCheck [] 0 [0x61#8] 1))).map (·.control.phase) = some .trailer ∧
    (nextOf (step (sample .endCheck [] 0 [0x61#8] 2))).map (·.control.err) = some .sizeMismatch := by decide +kernel

/-- 10_state R17, 46 R240: START runs from IDLE and is ignored while BUSY; a launch register is refused while BUSY. -/
theorem test_host_start :
    (nextOf (hostWrite .ctrl 1 State.reset)).map (fun t => (t.control.phase, t.adler.a)) = some (.zhdr, 1#16) ∧
    (nextOf (hostWrite .ctrl 1 (sample .symbol [] 0 [] 9))).map (·.control.phase) = some .symbol ∧
    nextOf (hostWrite .inLen 1 (sample .symbol [] 0 [] 9)) = none := by decide +kernel


/-- The examples of R170 to R198: the extra field gives the length. -/
theorem test_length_symbols_examples :
    ∀ p ∈ [(Instr.len257, 0x00#8, 3), (Instr.len258, 0x00#8, 4), (Instr.len259, 0x00#8, 5),
      (Instr.len260, 0x00#8, 6), (Instr.len261, 0x00#8, 7), (Instr.len262, 0x00#8, 8),
      (Instr.len263, 0x00#8, 9), (Instr.len264, 0x00#8, 10), (Instr.len265, 0x01#8, 12),
      (Instr.len266, 0x01#8, 14), (Instr.len267, 0x01#8, 16), (Instr.len268, 0x01#8, 18),
      (Instr.len269, 0x02#8, 21), (Instr.len270, 0x02#8, 25), (Instr.len271, 0x02#8, 29),
      (Instr.len272, 0x02#8, 33), (Instr.len273, 0x06#8, 41), (Instr.len274, 0x06#8, 49),
      (Instr.len275, 0x06#8, 57), (Instr.len276, 0x06#8, 65), (Instr.len277, 0x0E#8, 81),
      (Instr.len278, 0x0E#8, 97), (Instr.len279, 0x0E#8, 113), (Instr.len280, 0x0E#8, 129),
      (Instr.len281, 0x1E#8, 161), (Instr.len282, 0x1E#8, 193), (Instr.len283, 0x1E#8, 225),
      (Instr.len284, 0x1E#8, 257), (Instr.len285, 0x00#8, 258), (.len284, 0x1F#8, 258)],
      (nextOf (exec p.1 (sample .symbol [p.2.1] 0 [] 9))).map (·.matchLen) = some (some (BitVec.ofNat 9 p.2.2)) := by
  decide +kernel

/-- The examples of R200 to R229, all extra bits set: a match of length 1 at that distance copies the byte at address
0 when `OUT_POS` is the distance (45 R167), and is too far one byte earlier. -/
theorem test_distance_symbols_examples :
    ∀ p ∈ [(Instr.dist0, 0x0000, 1), (Instr.dist1, 0x0000, 2), (Instr.dist2, 0x0000, 3), (Instr.dist3, 0x0000, 4),
      (Instr.dist4, 0x0001, 6), (Instr.dist5, 0x0001, 8), (Instr.dist6, 0x0003, 12),
      (Instr.dist7, 0x0003, 16), (Instr.dist8, 0x0007, 24), (Instr.dist9, 0x0007, 32),
      (Instr.dist10, 0x000F, 48), (Instr.dist11, 0x000F, 64), (Instr.dist12, 0x001F, 96),
      (Instr.dist13, 0x001F, 128), (Instr.dist14, 0x003F, 192), (Instr.dist15, 0x003F, 256),
      (Instr.dist16, 0x007F, 384), (Instr.dist17, 0x007F, 512), (Instr.dist18, 0x00FF, 768),
      (Instr.dist19, 0x00FF, 1024), (Instr.dist20, 0x01FF, 1536), (Instr.dist21, 0x01FF, 2048),
      (Instr.dist22, 0x03FF, 3072), (Instr.dist23, 0x03FF, 4096), (Instr.dist24, 0x07FF, 6144),
      (Instr.dist25, 0x07FF, 8192), (Instr.dist26, 0x0FFF, 12288), (Instr.dist27, 0x0FFF, 16384),
      (Instr.dist28, 0x1FFF, 24576), (Instr.dist29, 0x1FFF, 32768)],
      (nextOf (exec p.1 (farSample p.2.1 p.2.2))).map (fun t => memRead t.out.outMem p.2.2) = some (some 0xAB#8) ∧
      (nextOf (exec p.1 (farSample p.2.1 (p.2.2 - 1)))).map (·.control.err) = some .distTooFar := by
  decide +kernel

/-! ### Witnesses: for each statement with hypotheses, states and operands that meet them, clause by clause -/

/-- The length array of 41 R101's example. -/
def exampleLengths : List Nat := [3, 3, 3, 3, 3, 2, 4, 4]

theorem witness_EncodeThenDecode :
    wellFormed { idleCtx with phase := .storedHdr } (.storedHdr 0xFFFF 0) = true ∧
    wellFormed clCtx .cl18 = true ∧ wellFormed (symCtx 2#2 false) .len285 = true ∧
    wellFormed (symCtx 2#2 true) .dist29 = true ∧ wellFormed (symCtx 1#2 false) (.fixedLl192To255 63) = true ∧
    wellFormed (symCtx 1#2 true) (.fixedD0To31 31) = true := by decide +kernel

theorem witness_DecodeThenEncode :
    clCtx.tCl.symbols.Nodup ∧ (symCtx 1#2 false).tLl.symbols.Nodup ∧ (symCtx 1#2 false).tD.symbols.Nodup ∧
    decode (symCtx 1#2 false) [0xFF#8, 0x01#8] = .ok (.fixedLl192To255 63, 9) ∧
    (symCtx 1#2 false).tLl = tableOf 9 fixedLitlenLengths ∧ (symCtx 1#2 false).tD = tableOf 5 fixedDistLengths := by
  decide +kernel

theorem witness_CanonicalCodeDecodes :
    exampleLengths.length ≤ 2 ^ 5 ∧ exampleLengths.length ≤ 320 ∧ (∀ x ∈ exampleLengths, x ≤ 15) ∧
    exampleLengths[7]? = some 4 ∧ canonicalCode exampleLengths 7 = 15 ∧ canonicalCode exampleLengths 7 < 2 ^ 4 := by
  decide +kernel

theorem witness_DecodeTotal :
    (buildTable 5 false [1]).isSome = true ∧
    (decodeProg (tableOf 5 [1])).runBits 0 [false] = .ok (0, 1) ∧
    (decodeProg (tableOf 5 [1])).runBits 0 (List.replicate 15 true) = .error .huffmanOverrun ∧
    (decodeProg (tableOf 5 [1])).runBits 0 (List.replicate 14 true) = .error .inputExhausted := by decide +kernel

theorem witness_BuildIsCountingSort :
    exampleLengths.length ≤ 2 ^ 5 ∧ exampleLengths.length ≤ 320 ∧ (buildTable 5 true exampleLengths).isSome = true ∧
    countingSort exampleLengths = [5, 0, 1, 2, 3, 4, 6, 7] := by decide +kernel

theorem witness_BuildFailsExactlyWhenOverSubscribed :
    buildTable 5 false [16] = none ∧ buildTable 5 true [1, 1, 1] = none ∧ 2 ^ 15 < kraftSum [1, 1, 1] ∧
    (buildTable 5 true [1, 1]).isSome = true ∧ kraftSum [1, 1] = 2 ^ 15 ∧ (buildTable 5 false [1, 1, 1]).isSome = true := by
  decide +kernel

theorem witness_ReadFollowsTheStream :
    Readable (sample .symbol [0xB5#8, 0x3C#8, 0xF0#8, 0x0F#8, 0xAA#8] 8 [] 0) 32 ∧
    Exhausted (sample .symbol [0xB5#8, 0x3C#8, 0xF0#8, 0x0F#8, 0xAA#8] 9 [] 0) 32 ∧
    Readable (sample .symbol [] 0 [] 0) 0 := by
  unfold Readable Exhausted ReaderInv InputPlaced; decide +kernel

theorem witness_AlignGoesToTheByteBoundary :
    ReaderInv v10 (readerAt v10 1) ∧ (readerAt v10 1).bitCount = 7#6 ∧ ReaderInv v10 (readerAt v10 40) := by
  unfold ReaderInv; decide +kernel

theorem witness_FetchDecodesTheStream :
    Readable (sample .blockHdr [0x78#8, 0x01#8, 0x01#8] 16 [] 0) 0 ∧
    (fetch (sample .blockHdr [0x78#8, 0x01#8, 0x01#8] 16 [] 0)).isOk = true := by
  unfold Readable ReaderInv InputPlaced; decide +kernel

theorem witness_TruncatedElementFaults :
    Exhausted (sample .zhdr [0x78#8] 0 [] 0) 16 ∧ Exhausted (sample .blockHdr [0#8] 6 [] 0) 3 ∧
    Exhausted (sample .storedCopy [] 0 [] 0) 8 ∧ Exhausted (sample .dynHdr [0#8, 0#8] 3 [] 0) 14 ∧
    Exhausted (sample .dynClen [0#8] 6 [] 0) 3 ∧
    Readable (sample .storedHdr [0#8, 0#8, 0#8, 0#8] 3 [] 0) 0 ∧
    8 * (sample .storedHdr [0#8, 0#8, 0#8, 0#8] 3 [] 0).launch.inLen.toNat <
      alignedPos (sample .storedHdr [0#8, 0#8, 0#8, 0#8] 3 [] 0).bitpos + 32 ∧
    (sample .trailer [0#8, 0#8, 0#8, 0#8] 3 [] 0).control.phase = .trailer := by
  unfold Readable Exhausted ReaderInv InputPlaced
  refine ⟨?_, ?_, ?_, ?_, ?_, ?_, ?_, ?_⟩ <;> decide +kernel

/-- A fixed block at its symbol loop. -/
def fixedLoop (bytes : List Byte) (out : List Byte) (expected : Nat) : State :=
  { sample .symbol bytes 0 out expected with
    block := { State.reset.block with btype := 1#2 }
    tables := { State.reset.tables with tLl := tableOf 9 fixedLitlenLengths, tD := tableOf 5 fixedDistLengths } }

/-- A fixed block at a length symbol, with no distance table: a state that no run reaches. -/
def noDistances : State :=
  { fixedLoop [0x40#8, 0x00#8, 0x00#8] [1#8] 9 with
    tables := { State.reset.tables with tLl := tableOf 9 fixedLitlenLengths } }

/-- 15 bits left, and an empty table: `T_CL`; `T_LL`; `T_D` after LEN257 in a fixed block. -/
theorem witness_EmptyTableOverruns :
    (Readable (sample .dynLengths [0#8, 0#8] 1 [] 0) 15 ∧
      (sample .dynLengths [0#8, 0#8] 1 [] 0).tables.tCl = emptyTable 5 ∧
      (sample .dynLengths [0#8, 0#8] 1 [] 0).control.phase = .dynLengths) ∧
    (Readable (sample .symbol [0#8, 0#8] 1 [] 0) 15 ∧
      (sample .symbol [0#8, 0#8] 1 [] 0).tables.tLl = emptyTable 9 ∧
      (sample .symbol [0#8, 0#8] 1 [] 0).matchLen = none) ∧
    ∃ s s' t : State, ∃ i : Instr, s.control.phase = .symbol ∧ s.matchLen = none ∧ fetch s = .ok (i, s') ∧
      exec i s' = .next t ∧ t.matchLen.isSome = true ∧ t.tables.tD = emptyTable 5 ∧ Readable t 15 := by
  refine ⟨by unfold Readable ReaderInv InputPlaced; decide +kernel,
    by unfold Readable ReaderInv InputPlaced; decide +kernel,
    noDistances, noDistances.setReader (readerAt noDistances.launch 7),
    (noDistances.setReader (readerAt noDistances.launch 7)).setMatchLen (some 3#9), .fixedLl256To271 1,
    rfl, rfl, by decide +kernel, by rfl, rfl, rfl, ?_⟩
  unfold Readable ReaderInv InputPlaced; decide +kernel

/-- An element; a length symbol followed by a distance symbol; a length symbol at the end of the input; a stop of the
model's; a fetch that faults. -/
theorem witness_StepRunsTheDecodedElement :
    (fetch (sample .blockHdr [0x01#8] 0 [] 0)).isOk = true ∧
    ((fetch (fixedLoop [0x40#8, 0x00#8] [1#8] 9)).toOption.bind fun p => nextOf (exec p.1 p.2)).map
      (fun t => (t.matchLen, (fetch t).isOk)) = some (some 3#9, true) ∧
    ((fetch (fixedLoop [0x40#8] [1#8] 9)).toOption.bind fun p => nextOf (exec p.1 p.2)).map
      (fun t => (t.matchLen, (fetch t).toOption.isNone)) = some (some 3#9, true) ∧
    (fetch (withDyn (sample .dynClen [0#8] 0 [] 0) 0 0 0 19 0)).isOk = true ∧
    nextOf (exec (.clen 0) (withDyn (sample .dynClen [0#8] 0 [] 0) 0 0 0 19 0)) = none ∧
    (fetch (sample .blockHdr [] 0 [] 0)).isOk = false := by decide +kernel

theorem witness_NothingExecutesAfterTheEnd :
    (sample .done [] 0 [] 0).control.phase = .done ∧ (takeFault .distTooFar State.reset).control.phase = .fault := by
  decide +kernel

theorem witness_StartBeginsARun :
    State.reset.control.status ≠ .busy ∧ (1#32).getLsbD 0 = true ∧ (2#32).getLsbD 0 = false ∧
    (takeFault .distTooFar State.reset).control.status ≠ .busy ∧ (sample .symbol [] 0 [] 0).control.status = .busy ∧
    (sample .done [] 0 [1#8] 1).launch = { State.reset.launch with expectedLen := 1 } ∧
    (sample .done [] 0 [1#8] 1).freeCount = State.reset.freeCount := by
  decide +kernel

theorem witness_HostWritesSetTheirRegister :
    State.reset.control.status ≠ .busy ∧ (takeFault .distTooFar State.reset).control.status ≠ .busy := by
  decide +kernel

theorem witness_ChecksumClosedForm :
    ([0x48#8] : List Byte).foldl adlerStep { a := 1#16, b := 0#16 } = { a := 73#16, b := 73#16 } := by decide +kernel

theorem witness_HostReadsTheViews :
    ((nextOf (exec (.adler32 0x05 0x8C 0x01 0xF5) (sample .trailer [] 0 [0x48, 0x65, 0x6C, 0x6C, 0x6F] 5))).map
      fun t => (t.control.status, memRead t.out.outMem 4)) = some (.done, some 0x6F#8) := by decide +kernel

theorem witness_HostOperationsKeepTheInvariant :
    Inv State.reset ∧ (nextOf (hostWrite .inLen 1 State.reset)).isSome = true ∧
    (nextOf (hostWriteIn 0 1 State.reset)).isSome = true ∧
    (nextOf (hostWrite .ctrl 1 State.reset)).isSome = true ∧
    (nextOf (hostWriteOut 0 1 { State.reset with launch := { State.reset.launch with expectedLen := 1 } })).isSome = true := by
  refine ⟨⟨by decide, by decide, ?_, rfl, fun h => by cases h⟩, by decide +kernel⟩
  unfold Coherent; decide

theorem witness_ZlibHeaderChecks :
    (256 * 0x78 + 0x02) % 31 ≠ 0 ∧ (256 * 0x78 + 0x20) % 31 = 0 ∧ (256 * 0x78 + 0x01) % 31 = 0 ∧
    (0x78 : Nat) = (8#4).toNat + 16 * (7#4).toNat ∧ (0x20 : Nat) = (0#5).toNat + 32 * (1#1).toNat + 64 * (0#2).toNat := by
  decide

theorem witness_StoredHeaderLatchesLengths :
    (5#16).toNat + (0xFFFA#16).toNat = 65535 ∧ (5#16).toNat + (0xFF00#16).toNat ≠ 65535 ∧
    (1#2).getLsbD 0 = true ∧ (sample .storedHdr [] 0 [] 0).launch.cfg.getLsbD 0 = false := by decide +kernel

theorem witness_StoredByteIsAppended :
    Room 1 (sample .storedCopy [] 0 [0#8] 2) ∧ ¬ Room 1 (sample .storedCopy [] 0 [0#8] 1) ∧
    ({ sample .storedCopy [] 0 [0#8] 2 with block := { State.reset.block with copyRem := 1#16 } }).block.copyRem ≠ 0#16 := by
  unfold Room; decide +kernel

/-- Not the last field, and the last of four, over-subscribed when strict: `1, 1, 1`. -/
theorem witness_CodeLengthFieldIsPlaced :
    (0 : Nat) + 1 < nCode (sample .dynClen [] 0 [] 0).dyn ∧ clOrder[0]? = some 16 ∧
    (3 : Nat) + 1 = nCode (withDyn (sample .dynClen [] 0 [] 0) 0 0 0 3 0).dyn ∧ clOrder[3]? = some 0 ∧
    (∀ j < 19, ((Vector.replicate 19 0#3).setIfInBounds 16 1#3)[j]? =
      if j = 16 then some 1#3 else (sample .dynClen [] 0 [] 0).dyn.clLengths[j]?) ∧
    2 ^ 15 < kraftSum [1, 0, 0, 0, 0, 0, 0, 0, 0, 0, 0, 0, 0, 0, 0, 0, 1, 1, 0] ∧
    kraftSum [1, 0, 0, 0, 0, 0, 0, 0, 0, 0, 0, 0, 0, 0, 0, 0, 1, 0, 0] ≤ 2 ^ 15 := by decide +kernel

theorem witness_CodeLengthIsAppended :
    (withDyn (sample .dynLengths [] 0 [] 0) 31 31 0 0 319).dyn.lenIdx.toNat <
      nLl (withDyn (sample .dynLengths [] 0 [] 0) 31 31 0 0 319).dyn +
        nD (withDyn (sample .dynLengths [] 0 [] 0) 31 31 0 0 319).dyn := by decide +kernel

/-- The samples of a repeat with two extra bits `11`: the run fits, reaches the end exactly, passes it, has no bits. -/
theorem witness_RepeatPreviousLength :
    Readable (withDyn (sample .dynLengths [3#8] 0 [] 0) 0 0 0 0 252) 2 ∧
    fieldAt (sample .dynLengths [3#8] 0 [] 0).launch 0 2 = 3 ∧
    nLl (withDyn (sample .dynLengths [3#8] 0 [] 0) 0 0 0 0 252).dyn + nD (withDyn (sample .dynLengths [3#8] 0 [] 0) 0 0 0 0 252).dyn = 258 ∧
    (252 + (3 + 3) ≤ 258 ∧ 258 < 253 + (3 + 3)) ∧ Exhausted (withDyn (sample .dynLengths [3#8] 7 [] 0) 0 0 0 0 1) 2 ∧
    (sample .dynLengths [3#8] 0 [] 0).dyn.lenIdx = 0#9 ∧
    (sample .dynLengths [3#8] 0 [] 0).dyn.lengths[251]? = some 0#4 := by
  unfold Readable Exhausted ReaderInv InputPlaced; decide +kernel

theorem witness_RepeatZeroLength :
    Readable (sample .dynLengths [0x7F#8] 0 [] 0) 3 ∧ Readable (sample .dynLengths [0x7F#8] 1 [] 0) 7 ∧
    fieldAt (sample .dynLengths [0x7F#8] 0 [] 0).launch 0 7 = 127 ∧ (120 + (11 + 127) ≤ 258 ∧ 258 < 121 + (11 + 127)) ∧
    fieldAt (sample .dynLengths [0x7F#8] 0 [] 0).launch 0 3 = 7 ∧ (248 + (3 + 7) ≤ 258 ∧ 258 < 249 + (3 + 7)) ∧
    Exhausted (sample .dynLengths [0x7F#8] 6 [] 0) 3 ∧ Exhausted (sample .dynLengths [0x7F#8] 2 [] 0) 7 := by
  unfold Readable Exhausted ReaderInv InputPlaced; decide +kernel

theorem witness_LiteralIsAppended :
    Room 1 (sample .symbol [] 0 [] 1) ∧ ¬ Room 1 (sample .symbol [] 0 [] 0) := by unfold Room; decide +kernel

/-- The first and the last row, a row with extra bits, and the input ending in them. -/
theorem witness_LengthSymbolsReadTheLength :
    (lbase[0]? = some 3 ∧ lext[0]? = some 0 ∧ lbase[28]? = some 258 ∧ lext[28]? = some 0 ∧ lext[27]? = some 5) ∧
    Readable (sample .symbol [0x1F#8] 3 [] 9) 5 ∧ Exhausted (sample .symbol [0x1F#8] 4 [] 9) 5 ∧
    Readable (sample .symbol [] 0 [] 9) 0 := by
  unfold Readable Exhausted ReaderInv InputPlaced; decide +kernel

/-- DIST4's extra bit: missing; a distance of 6 at `OUT_POS` 6 and 5; a match that fits exactly and one that does not. -/
theorem witness_DistanceSymbolsCopyTheMatch :
    (dbase[4]? = some 5 ∧ dext[4]? = some 1 ∧ dbase[29]? = some 24577 ∧ dext[29]? = some 13 ∧ dbase[0]? = some 1) ∧
    Exhausted (sample .symbol [] 0 [1, 2, 3, 4, 5, 6] 9) 1 ∧ Readable (sample .symbol [1#8] 0 [1, 2, 3, 4, 5, 6] 9) 1 ∧
    5 + fieldAt (sample .symbol [1#8] 0 [] 9).launch 0 1 = 6 ∧
    HistoryWritten (sample .symbol [1#8] 0 [1, 2, 3, 4, 5, 6] 9) ∧
    Room 3 (sample .symbol [1#8] 0 [1, 2, 3, 4, 5, 6] 9) ∧ ¬ Room 4 (sample .symbol [1#8] 0 [1, 2, 3, 4, 5, 6] 9) := by
  unfold Readable Exhausted ReaderInv InputPlaced HistoryWritten Room; decide +kernel

theorem witness_FixedLiteralRows :
    Room 1 (sample .symbol [] 0 [7#8] 2) ∧ ¬ Room 1 (sample .symbol [] 0 [7#8] 1) := by unfold Room; decide +kernel

theorem witness_FixedEndAndLengthRows :
    (lbase[(1#4).toNat - 1]? = some 3 ∧ lbase[(15#4).toNat - 1]? = some 27 ∧ lext[(15#4).toNat - 1]? = some 2) ∧
    (lbase[15 + (7#3).toNat]? = some 99 ∧ lext[15 + (7#3).toNat]? = some 4) ∧
    (lbase[23 + (5#3).toNat]? = some 258 ∧ lext[23 + (5#3).toNat]? = some 0 ∧ lbase[23 + (6#3).toNat]? = none) ∧
    Readable (sample .symbol [2#8] 0 [] 9) 4 ∧ Exhausted (sample .symbol [2#8] 5 [] 9) 4 := by
  unfold Readable Exhausted ReaderInv InputPlaced; decide +kernel

theorem witness_FixedDistanceRow :
    dbase[(29#5).toNat]? = some 24577 ∧ dext[(29#5).toNat]? = some 13 ∧ 30 ≤ (30#5).toNat ∧
    (farSample 0x1FFF 32768).matchLen = some 1#9 ∧ Readable (farSample 0x1FFF 32768) 13 := by
  unfold Readable ReaderInv InputPlaced; decide +kernel

/-- The checksum of no bytes is 1 (46 R252). -/
theorem witness_TrailerEndsTheRun :
    ((0 * 256 + 0) * 256 + 0) * 256 + 1 =
      (sample .trailer [] 0 [] 0).adler.b.toNat * 65536 + (sample .trailer [] 0 [] 0).adler.a.toNat ∧
    ((0 * 256 + 0) * 256 + 1) * 256 + 1 ≠
      (sample .trailer [] 0 [] 0).adler.b.toNat * 65536 + (sample .trailer [] 0 [] 0).adler.a.toNat := by decide +kernel

theorem witness_FixedSetupBuildsTheFixedTables :
    (sample .fixedSetup [] 0 [] 0).control.phase = .fixedSetup := by decide

/-- All lengths 0 are incomplete; 257 lengths of 1 over-subscribe. -/
theorem witness_DynamicBuildSplitsTheLengths :
    (sample .dynBuild [] 0 [] 0).control.phase = .dynBuild ∧
    kraftSum (List.replicate 257 0) ≤ 2 ^ 15 ∧ 2 ^ 15 < kraftSum (List.replicate 257 1) ∧
    (2#2).getLsbD 1 = true ∧ (1#2).getLsbD 1 = false := by decide +kernel

theorem witness_SizeCheckBeforeTheTrailer :
    (sample .endCheck [] 0 [1#8] 1).out.outPos = (sample .endCheck [] 0 [1#8] 1).launch.expectedLen ∧
    (sample .endCheck [] 0 [1#8] 2).out.outPos ≠ (sample .endCheck [] 0 [1#8] 2).launch.expectedLen := by decide +kernel

theorem witness_OutAppendWritesOneByte :
    Room 1 (sample .symbol [] 0 [1#8] 2) ∧ ¬ Room 1 (sample .symbol [] 0 [1#8] 1) := by unfold Room; decide +kernel

/-- An overlapping copy, and the farthest distance. -/
theorem witness_MatchCopyRepeatsTheHistory :
    HistoryWritten (sample .symbol [] 0 [1, 2, 3] 9) ∧ Room 6 (sample .symbol [] 0 [1, 2, 3] 9) ∧
    1 ≤ 1 ∧ 3 ≤ (sample .symbol [] 0 [1, 2, 3] 9).out.outPos.toNat := by
  unfold HistoryWritten Room; decide +kernel

/-- A stored block with two bytes left. -/
def storedTwo : State :=
  { sample .storedCopy [0x61#8, 0x62#8] 0 [0x48#8] 3 with
    block := { State.reset.block with len := 2#16, copyRem := 2#16, bfinal := 1#1 } }

theorem storedTwo_inv : Inv storedTwo := by
  refine ⟨by decide +kernel, by decide +kernel, ?_, rfl, fun _ => ⟨?_, ?_, ?_⟩⟩
  · unfold Coherent; decide +kernel
  · unfold ReaderInv; decide +kernel
  · unfold OutputInv; decide +kernel
  · exact ⟨rfl, by decide +kernel, by decide +kernel, by decide +kernel⟩

theorem witness_StoredBlockIsVerbatim :
    Inv storedTwo ∧ InputPlaced storedTwo.launch ∧ storedTwo.control.phase = .storedCopy ∧
    2 = storedTwo.block.copyRem.toNat ∧ storedTwo.reader.bytePos.toNat + 2 ≤ storedTwo.launch.inLen.toNat ∧
    Room 2 storedTwo :=
  ⟨storedTwo_inv, by unfold InputPlaced; decide +kernel, rfl, by decide +kernel, by decide +kernel,
    by unfold Room; decide +kernel⟩

/-- An instruction that appends nothing and completes, not by a fault. -/
theorem witness_OthersLeaveTheOutput :
    appends .eob = false ∧ (nextOf (exec .eob storedTwo)).map (·.control.status) = some .busy := by decide +kernel

/-- A stored byte, a literal and a match of two bytes complete. -/
theorem witness_AppendersWriteAtOutPosOnly :
    (appends (.storedByte 1) = true ∧
      (nextOf (exec (.storedByte 1) storedTwo)).map (·.control.status) = some .busy) ∧
    (appends (.lit 1) = true ∧ (nextOf (exec (.lit 1) storedTwo)).map (·.control.status) = some .busy) ∧
    appends .dist0 = true ∧ appendCount .dist0 { storedTwo with matchLen := some 2#9 } = 2 ∧
    (nextOf (exec .dist0 { storedTwo with matchLen := some 2#9 })).map (·.control.status) = some .busy := by
  decide +kernel

/-- An instruction that completes and to which every clause of the frame applies, and a block header. -/
theorem witness_RegistersHaveOneWriter :
    (readsExtra (.lit 1) = false ∧ isMatchHalf (.lit 1) = false ∧ wordPhase (.lit 1) = none ∧
      isClSymbol (.lit 1) = false ∧ (nextOf (exec (.lit 1) storedTwo)).map (·.control.status) = some .busy) ∧
    wordPhase (.blockStored 0) = some .blockHdr ∧
    (nextOf (exec (.blockStored 0) storedTwo)).map (·.control.status) = some .busy := by decide +kernel

theorem witness_EveryStepKeepsTheInvariant :
    Inv storedTwo ∧ (nextOf (step storedTwo)).isSome = true :=
  ⟨storedTwo_inv, by decide +kernel⟩

theorem witness_StepAlwaysAnswers : Inv storedTwo ∧ InputPlaced storedTwo.launch :=
  ⟨storedTwo_inv, by unfold InputPlaced; decide +kernel⟩

theorem witness_EveryRunEnds : Inv storedTwo ∧ InputPlaced storedTwo.launch ∧ storedTwo.control.status = .busy :=
  ⟨storedTwo_inv, by unfold InputPlaced; decide +kernel, rfl⟩

/-- A final block's end, with the size right. -/
def sizeChecked : State :=
  { sample .endCheck [] 0 [0x48#8] 1 with block := { State.reset.block with bfinal := 1#1 } }

theorem witness_BitPositionAdvances :
    (Inv storedTwo ∧ (nextOf (step storedTwo)).map (·.control.status) = some .busy ∧
      bitFree storedTwo.control.phase = false) ∧
    Inv sizeChecked ∧ (nextOf (step sizeChecked)).map (·.control.status) = some .busy ∧
      bitFree sizeChecked.control.phase = true := by
  refine ⟨⟨storedTwo_inv, by decide +kernel⟩, ⟨by decide +kernel, by decide +kernel, ?_, rfl, fun _ => ⟨?_, ?_, rfl⟩⟩,
    by decide +kernel⟩
  · unfold Coherent; decide +kernel
  · unfold ReaderInv; decide +kernel
  · unfold OutputInv; decide +kernel

theorem witness_PhasesFollowTheTable :
    (nextOf (step storedTwo)).map (·.matchLen) = some none ∧ storedTwo.matchLen = none := by decide +kernel

theorem witness_OnlyBlockWritesBfinal :
    (nextOf (step storedTwo)).map (·.control.phase) = some .storedCopy ∧ storedTwo.control.phase ≠ .blockHdr := by
  decide +kernel

/-- The trailer of 95 V1 after `H`: `a = b = 73`, four bits into the last byte of the block. -/
def lastTrailer : State :=
  { sample .trailer [0x03#8, 0x00#8, 0x49#8, 0x00#8, 0x49#8] 4 [0x48#8] 1 with
    block := { State.reset.block with bfinal := 1#1 } }

theorem witness_DoneMeansVerified :
    Inv lastTrailer ∧ lastTrailer.control.status = .busy ∧
    (nextOf (step lastTrailer)).map (·.control.status) = some .done := by
  refine ⟨⟨by decide +kernel, by decide +kernel, ?_, rfl, fun _ => ⟨?_, ?_, rfl, rfl⟩⟩, rfl, by decide +kernel⟩
  · unfold Coherent; decide +kernel
  · unfold ReaderInv; decide +kernel
  · unfold OutputInv; decide +kernel

/-- Two different states whose inputs differ beyond `IN_LEN` only, and a run of one step that goes on. -/
theorem witness_ResultDependsOnLaunchOnly :
    let s1 := sample .zhdr [0x78#8, 0x01#8] 0 [] 0
    let s2 := { sample .symbol [0x78#8, 0x01#8, 0x55#8] 0 [1#8] 0 with
      launch := { (sample .symbol [0x78#8, 0x01#8, 0x55#8] 0 [1#8] 0).launch with inLen := 2#32 } }
    (s1.launch.inLen = s2.launch.inLen ∧ s1.launch.expectedLen = s2.launch.expectedLen ∧
      s1.launch.cfg = s2.launch.cfg ∧ ∀ a < s1.launch.inLen.toNat, memRead s1.launch.inMem a = memRead s2.launch.inMem a) ∧
    s1.launch ≠ s2.launch ∧ (nextOf (step (start s1))).map (·.control.phase) = some .blockHdr := by decide +kernel

end Sys2Proof.Tests
end

/-! ## The host's side of the state

What the host's accesses answer and leave (10_state R17, R28, R240; 70 R300). -/

namespace Sys2Proof.Machine

open Sys2Proof Sys2Proof.Abstract

/-- A host write that is accepted found the engine at rest. -/
theorem unlessBusy_next {s s' t : State} (h : unlessBusy s s' = .next t) :
    s.control.status ≠ .busy ∧ t = s' := by
  unfold unlessBusy at h
  split at h
  · cases h
  · rename_i hb
    cases h
    exact ⟨hb, rfl⟩

/-- While the engine is not `BUSY` a host write takes place. -/
theorem unlessBusy_of_not_busy {s : State} (s' : State) (h : s.control.status ≠ .busy) :
    unlessBusy s s' = .next s' := if_neg h

/-- A read of a position answers the state as it was, or after one draw of free values. -/
theorem positionRead_next {p v : BitVec 32} {s t : State} (h : positionRead p s = .next (v, t)) :
    t = s ∨ t = s.drawn := by
  unfold positionRead at h
  split at h <;> cases h <;> simp

/-- A read of a launch register changes nothing. -/
theorem launchRead_next {p v : BitVec 32} {s t : State} (h : launchRead p s = .next (v, t)) : t = s := by
  unfold launchRead at h
  split at h <;> cases h
  rfl

/-- A host read of a register leaves the state as it was, or draws once. -/
theorem hostRead_next {r : HostReg} {v : BitVec 32} {s t : State} (h : hostRead r s = .next (v, t)) :
    t = s ∨ t = s.drawn := by
  cases r with
  | inLen => exact .inl (launchRead_next h)
  | expectedLen => exact .inl (launchRead_next h)
  | cfg => exact .inl (launchRead_next h)
  | ctrl => cases h; exact .inl rfl
  | status => cases h; exact .inl rfl
  | err => cases h; exact .inl rfl
  | outLen => exact positionRead_next h
  | inConsumed => exact positionRead_next h

/-- A host read of an output byte leaves the state as it was, or draws once. -/
theorem hostReadOut_next {a : Addr} {b : Byte} {s t : State} (h : hostReadOut a s = .next (b, t)) :
    t = s ∨ t = s.drawn := by
  unfold hostReadOut at h
  split at h
  · cases h
  · split at h
    · split at h <;> cases h
      exact .inl rfl
    · cases h
      exact .inr rfl

/-- A write of `CTRL` starts a run, or does nothing (46 R240). -/
theorem hostWrite_ctrl_next {v : BitVec 32} {s t : State} (h : hostWrite .ctrl v s = .next t) :
    t = start s ∨ t = s := by
  simp only [hostWrite] at h
  split at h <;> cases h <;> simp

/-! ### The invariant under the host's operations -/

/-- At rest the invariant says that the memories are canonical, the control registers agree and no length is
pending. -/
theorem inv_of_not_busy {s : State} (hin : Memory.wf s.launch.inMem) (hout : Memory.wf s.out.outMem)
    (hc : Coherent s.control) (hm : s.matchLen = none) (hb : s.control.status ≠ .busy) : Inv s :=
  ⟨hin, hout, hc, hm, fun h => absurd h hb⟩

/-- A draw of free values touches nothing the invariant speaks of. -/
theorem inv_drawn {s : State} (h : Inv s) : Inv s.drawn := h

/-- The checksum registers start at the checksum of no bytes (46 R252). -/
theorem checksum_initial : checksum { a := 1#16, b := 0#16 } = adler32Of [] := by decide

/-- A run begins with an empty output, and the bit reader at bit 0 (46 R240). -/
theorem inv_start {s : State} (hin : Memory.wf s.launch.inMem) : Inv (start s) := by
  refine ⟨hin, List.Pairwise.nil, ?_, rfl, fun _ => ⟨?_, ?_, rfl, rfl⟩⟩
  · simp [Coherent]
  · simp [ReaderInv]
  · exact ⟨by simp, rfl, checksum_initial⟩

/-- Hardware reset leaves the engine idle, with the host's input (70 R300). -/
theorem inv_hardwareReset {s : State} (hin : Memory.wf s.launch.inMem) : Inv (hardwareReset s) := by
  refine inv_of_not_busy hin List.Pairwise.nil ?_ rfl ?_
  · simp [Coherent, hardwareReset, State.reset]
  · simp [hardwareReset, State.reset]

/-- New launch parameters, written at rest. -/
theorem inv_setLaunch {s : State} (h : Inv s) (hb : s.control.status ≠ .busy) {l : Launch}
    (hl : Memory.wf l.inMem) : Inv (s.setLaunch l) := by
  obtain ⟨-, hout, hc, hm, -⟩ := h
  exact inv_of_not_busy hl hout hc hm hb

/-- A register write of the host keeps the invariant. -/
theorem inv_hostWrite {r : HostReg} {v : BitVec 32} {s t : State} (h : Inv s)
    (hw : hostWrite r v s = .next t) : Inv t := by
  have hin : Memory.wf s.launch.inMem := h.1
  cases r with
  | inLen => obtain ⟨hb, rfl⟩ := unlessBusy_next hw; exact inv_setLaunch h hb hin
  | expectedLen => obtain ⟨hb, rfl⟩ := unlessBusy_next hw; exact inv_setLaunch h hb hin
  | cfg => obtain ⟨hb, rfl⟩ := unlessBusy_next hw; exact inv_setLaunch h hb hin
  | ctrl =>
    rcases hostWrite_ctrl_next hw with rfl | rfl
    · exact inv_start hin
    · exact h
  | status => cases hw
  | err => cases hw
  | outLen => cases hw
  | inConsumed => cases hw

/-- Placing an input byte keeps the invariant. -/
theorem inv_hostWriteIn {a : Addr} {b : Byte} {s t : State} (h : Inv s)
    (hw : hostWriteIn a b s = .next t) : Inv t := by
  obtain ⟨hb, rfl⟩ := unlessBusy_next hw
  exact inv_setLaunch h hb (wf_memWrite _ _ _ h.1)

/-- Writing an output byte at rest keeps the invariant. -/
theorem inv_hostWriteOut {a : Addr} {b : Byte} {s t : State} (h : Inv s)
    (hw : hostWriteOut a b s = .next t) : Inv t := by
  unfold hostWriteOut at hw
  split at hw
  · cases hw
  · obtain ⟨hb, rfl⟩ := unlessBusy_next hw
    obtain ⟨hin, hout, hc, hm, -⟩ := h
    exact inv_of_not_busy hin (wf_memWrite _ _ _ hout) hc hm hb

/-- Settles O23: each operation of the host by its own lemma. -/
theorem hostOperationsKeepTheInvariant : Obligations.HostOperationsKeepTheInvariant := by
  intro s h
  refine ⟨inv_hardwareReset h.1, fun r v t => inv_hostWrite h, fun a b t hw => ?_, fun r v t hr => ?_,
    fun a b t hr => ?_⟩
  · exact hw.elim (inv_hostWriteIn h) (inv_hostWriteOut h)
  · rcases hostRead_next hr with rfl | rfl
    · exact h
    · exact inv_drawn h
  · rcases hostReadOut_next hr with rfl | rfl
    · exact h
    · exact inv_drawn h

/-- Settles O21: at rest the write takes place, and a write of memory is read back at its own address only. -/
theorem hostWritesSetTheirRegister : Obligations.HostWritesSetTheirRegister := by
  intro s v hb
  refine ⟨unlessBusy_of_not_busy _ hb, unlessBusy_of_not_busy _ hb, unlessBusy_of_not_busy _ hb, fun a b =>
    ⟨_, unlessBusy_of_not_busy _ hb, memRead_memWrite_same _ _ _, fun a' ha => ?_, rfl⟩⟩
  exact memRead_memWrite_other _ _ _ _ ha

/-- Settles O22: `STATUS` and `ERR` by their codes, the views by the state `DONE`. -/
theorem hostReadsTheViews : Obligations.HostReadsTheViews := by
  intro s
  refine ⟨⟨_, rfl, ?_⟩, ⟨_, rfl, ?_⟩, rfl, fun hd => ⟨?_, ?_, fun a b ha hm => ?_⟩⟩
  · cases s.control.status <;> rfl
  · cases s.control.err <;> rfl
  · simp [hostRead, positionRead, hd]
  · simp [hostRead, positionRead, hd]
  · simp [hostReadOut, Nat.not_le.mpr ha, hd, hm]

/-! ### What a step is -/

/-- In a phase that executes an element a step is one stream element (10_state R15). -/
theorem step_eq_elementStep {s : State} (hr : atRest s.control.phase = false)
    (hf : bitFree s.control.phase = false) : step s = elementStep s := by
  unfold step phaseStep
  split <;> simp_all [atRest, bitFree]

/-- A fetched element is executed. -/
theorem fetchExec_of_fetch_ok {s s' : State} {i : Instr} (h : fetch s = .ok (i, s')) :
    fetchExec s = exec i s' := by
  simp [fetchExec, h]

/-- A fault of the fetch is taken (60 R288). -/
theorem fetchExec_of_fetch_raise {s : State} {e : ErrCode} (h : fetch s = .error (.raise e)) :
    fetchExec s = .next (takeFault e s) := by
  simp [fetchExec, h]

/-- A next state with no newly pending length is the element's. -/
theorem completeMatch_next {s t : State} (h : s.matchLen.isSome = true ∨ t.matchLen = none) :
    completeMatch s (.next t) = .next t := by
  have hc : (s.matchLen.isNone && t.matchLen.isSome) = false := by
    rcases h with h | h
    · rw [← Option.not_isSome, h]; rfl
    · simp [h]
  simp [completeMatch, hc]

/-- A newly pending length makes the distance symbol follow in the same step (45 R163). -/
theorem completeMatch_pending {s t : State} (hs : s.matchLen = none) (ht : t.matchLen.isSome = true) :
    completeMatch s (.next t) = fetchExec t := by
  simp [completeMatch, hs, ht]

/-- Settles O16: the step is `elementStep`, and `completeMatch` chooses by the pending length. -/
theorem stepRunsTheDecodedElement : Obligations.StepRunsTheDecodedElement := by
  intro s hr hf
  rw [step_eq_elementStep hr hf]
  refine ⟨fun i s' h => ?_, fun e h => ?_⟩
  · rw [elementStep, fetchExec_of_fetch_ok h]
    refine ⟨fun t he hm => ?_, fun t j t' hs he ht hj => ?_, fun t e hs he ht hj => ?_, fun f he => ?_⟩
    · rw [he, completeMatch_next hm]
    · rw [he, completeMatch_pending hs ht, fetchExec_of_fetch_ok hj]
    · rw [he, completeMatch_pending hs ht, fetchExec_of_fetch_raise hj]
    · rw [he, completeMatch]
  · rw [elementStep, fetchExec_of_fetch_raise h]
    exact completeMatch_next (.inr rfl)

end Sys2Proof.Machine

/-! ## The bit reader keeps I-BR

READ and ALIGN over the registers (40 R91 to R94, 10_state R12): what they do to the bits held and to `bitpos`. -/

namespace Sys2Proof.Machine

open Sys2Proof

/-- `bitpos` (R14) of the bit reader's registers. -/
def readerPos (r : BitReader) : Nat := 8 * r.bytePos.toNat - r.bitCount.toNat

theorem bitpos_eq_readerPos (s : State) : s.bitpos = readerPos s.reader := rfl

/-- The bits held, also within READ, where more than 7 may be held: they fit `BIT_COUNT`, and the high ones are the
high bits of the last byte pulled. `ReaderInv` is this with at most 7 bits held (`held_of_readerInv`,
`readerInv_of_held`). -/
structure Held (l : Launch) (r : BitReader) : Prop where
  within : r.bytePos.toNat ≤ l.inLen.toNat
  pulled : r.bitCount.toNat ≤ 8 * r.bytePos.toNat
  fits : r.bitBuf.toNat < 2 ^ r.bitCount.toNat
  high : ∀ k, k ≠ 0 → k ≤ 8 → k ≤ r.bitCount.toNat →
    (memRead l.inMem (r.bytePos.toNat - 1)).map (fun b : Byte => b.toNat / 2 ^ (8 - k)) =
      some (r.bitBuf.toNat / 2 ^ (r.bitCount.toNat - k))

theorem toNat_byte_ushiftRight (b : Byte) (k : Nat) :
    (b.setWidth 64 >>> k).toNat = b.toNat / 2 ^ k := by
  rw [BitVec.toNat_ushiftRight, BitVec.toNat_setWidth, Nat.mod_eq_of_lt (by omega), Nat.shiftRight_eq_div_pow]

theorem held_of_readerInv {l : Launch} {r : BitReader} (h : ReaderInv l r) : Held l r := by
  obtain ⟨hin, hc, hzero, hlast⟩ := h
  by_cases h0 : r.bitCount.toNat = 0
  · have hb := hzero h0
    exact ⟨hin, by omega, by simp [hb, h0], fun k hk _ hkc => absurd hkc (by omega)⟩
  · obtain ⟨hpos, hmem⟩ := hlast h0
    rw [Option.map_eq_some_iff] at hmem
    obtain ⟨b, hb, hbuf⟩ := hmem
    have hval : r.bitBuf.toNat = b.toNat / 2 ^ (8 - r.bitCount.toNat) := by
      rw [← hbuf, toNat_byte_ushiftRight]
    refine ⟨hin, by omega, ?_, fun k hk0 hk8 hkc => ?_⟩
    · rw [hval, Nat.div_lt_iff_lt_mul (Nat.two_pow_pos _), ← pow_add]
      exact lt_of_lt_of_eq b.isLt (by congr 1; omega)
    · simp only [hb, Option.map_some, hval, Nat.div_div_eq_div_mul, ← pow_add, Option.some.injEq]
      congr 2
      omega

theorem readerInv_of_held {l : Launch} {r : BitReader} (h : Held l r) (hc : r.bitCount.toNat ≤ 7) :
    ReaderInv l r := by
  refine ⟨h.within, hc, fun h0 => ?_, fun h0 => ?_⟩
  · have hf := h.fits
    rw [h0] at hf
    exact BitVec.eq_of_toNat_eq (by simp; omega)
  · have hp := h.pulled
    refine ⟨by omega, ?_⟩
    have hh := h.high _ h0 (by omega) le_rfl
    rw [Option.map_eq_some_iff] at hh ⊢
    obtain ⟨b, hb, hv⟩ := hh
    refine ⟨b, hb, BitVec.eq_of_toNat_eq ?_⟩
    rw [toNat_byte_ushiftRight, hv]
    simp

/-- The reader after one byte more. -/
def pulledByte (b : Byte) (r : BitReader) : BitReader where
  bytePos := r.bytePos + 1#32
  bitBuf := r.bitBuf ||| (b.setWidth 64 <<< r.bitCount.toNat)
  bitCount := r.bitCount + 8#6

theorem pulledByte_bytePos {l : Launch} {r : BitReader} (b : Byte) (h : r.bytePos.toNat < l.inLen.toNat) :
    (pulledByte b r).bytePos.toNat = r.bytePos.toNat + 1 := by
  have := l.inLen.isLt
  simp only [pulledByte, BitVec.toNat_add, BitVec.toNat_ofNat]
  omega

theorem pulledByte_bitCount {r : BitReader} (b : Byte) (h : r.bitCount.toNat < 56) :
    (pulledByte b r).bitCount.toNat = r.bitCount.toNat + 8 := by
  simp only [pulledByte, BitVec.toNat_add, BitVec.toNat_ofNat]
  omega

/-- A byte pulled goes above the bits held. -/
theorem pulledByte_bitBuf {r : BitReader} (b : Byte) (h : r.bitCount.toNat < 56)
    (hf : r.bitBuf.toNat < 2 ^ r.bitCount.toNat) :
    (pulledByte b r).bitBuf.toNat = b.toNat * 2 ^ r.bitCount.toNat + r.bitBuf.toNat := by
  have hlt : b.toNat * 2 ^ r.bitCount.toNat < 2 ^ 64 := calc
    b.toNat * 2 ^ r.bitCount.toNat < 2 ^ 8 * 2 ^ r.bitCount.toNat :=
      Nat.mul_lt_mul_of_pos_right b.isLt (Nat.two_pow_pos _)
    _ = 2 ^ (8 + r.bitCount.toNat) := (pow_add 2 8 _).symm
    _ ≤ 2 ^ 64 := Nat.pow_le_pow_right (by decide) (by omega)
  simp only [pulledByte, BitVec.toNat_or, BitVec.toNat_shiftLeft, BitVec.toNat_setWidth]
  rw [Nat.mod_eq_of_lt (a := b.toNat) (by omega), Nat.shiftLeft_eq, Nat.mod_eq_of_lt hlt, Nat.or_comm,
    Nat.mul_comm, Nat.two_pow_add_eq_or_of_lt hf]

theorem held_pulledByte {l : Launch} {r : BitReader} {b : Byte} (h : Held l r) (hc : r.bitCount.toNat < 56)
    (hin : r.bytePos.toNat < l.inLen.toNat) (hb : memRead l.inMem r.bytePos.toNat = some b) :
    Held l (pulledByte b r) := by
  have hp := pulledByte_bytePos b hin
  have hn := pulledByte_bitCount b hc
  have hv := pulledByte_bitBuf b hc h.fits
  have hpulled := h.pulled
  refine ⟨by omega, by omega, ?_, fun k hk0 hk8 hkc => ?_⟩
  · calc (pulledByte b r).bitBuf.toNat
        < b.toNat * 2 ^ r.bitCount.toNat + 2 ^ r.bitCount.toNat := by have := h.fits; omega
      _ = (b.toNat + 1) * 2 ^ r.bitCount.toNat := (Nat.succ_mul _ _).symm
      _ ≤ 2 ^ 8 * 2 ^ r.bitCount.toNat := Nat.mul_le_mul_right _ b.isLt
      _ = 2 ^ (pulledByte b r).bitCount.toNat := by rw [hn, ← pow_add, Nat.add_comm]
  · rw [hp, Nat.add_sub_cancel, hb, hv, hn, Nat.add_sub_assoc hk8 r.bitCount.toNat, pow_add 2 r.bitCount.toNat,
      ← Nat.div_div_eq_div_mul, Nat.mul_comm, Nat.mul_add_div (Nat.two_pow_pos _), Nat.div_eq_of_lt h.fits]
    rfl

/-- A byte pulled leaves `bitpos`: its 8 bits are held. -/
theorem readerPos_pulledByte {l : Launch} {r : BitReader} (b : Byte) (hc : r.bitCount.toNat < 56)
    (hin : r.bytePos.toNat < l.inLen.toNat) : readerPos (pulledByte b r) = readerPos r := by
  unfold readerPos
  rw [pulledByte_bytePos b hin, pulledByte_bitCount b hc]
  omega

/-- What the refill does: the bits stay held, `bitpos` stays, and enough bits are held after enough rounds. -/
theorem pullBytes_held {l : Launch} {n k : Nat} {r q : BitReader} (hn : n ≤ 32) (h : Held l r)
    (hc : r.bitCount.toNat ≤ n + 7) (hp : pullBytes l n k r = .ok q) :
    Held l q ∧ readerPos q = readerPos r ∧ q.bitCount.toNat ≤ n + 7 ∧
      (n ≤ r.bitCount.toNat + 8 * k → n ≤ q.bitCount.toNat) := by
  induction k generalizing r with
  | zero => cases hp; exact ⟨h, rfl, hc, fun h => h⟩
  | succ k ih =>
    by_cases hlt : r.bitCount.toNat < n
    · by_cases hin : l.inLen.toNat ≤ r.bytePos.toNat
      · simp [pullBytes, hlt, hin] at hp
      · cases hb : memRead l.inMem r.bytePos.toNat with
        | none => simp [pullBytes, hlt, hin, hb] at hp
        | some b =>
          have hin : r.bytePos.toNat < l.inLen.toNat := Nat.lt_of_not_le hin
          have hc56 : r.bitCount.toNat < 56 := by omega
          have hcount := pulledByte_bitCount b hc56
          rw [pullBytes_succ l n k r hlt hin b hb] at hp
          obtain ⟨hq, hpos, hle, hge⟩ := ih (held_pulledByte h hc56 hin hb) (by omega) hp
          exact ⟨hq, hpos.trans (readerPos_pulledByte b hc56 hin), hle, fun hk => hge (by omega)⟩
    · rw [pullBytes_enough l n (k + 1) r (Nat.le_of_not_lt hlt)] at hp
      cases hp
      exact ⟨h, rfl, hc, fun _ => Nat.le_of_not_lt hlt⟩

/-- The reader after its low `n` bits are dropped: what READ and ALIGN end with. -/
def dropBits (n : Nat) (r : BitReader) : BitReader :=
  { r with bitBuf := r.bitBuf >>> n, bitCount := r.bitCount - BitVec.ofNat 6 n }

theorem dropBits_bitCount {n : Nat} {r : BitReader} (h : n ≤ r.bitCount.toNat) :
    (dropBits n r).bitCount.toNat = r.bitCount.toNat - n := by
  have := r.bitCount.isLt
  simp only [dropBits, BitVec.toNat_sub, BitVec.toNat_ofNat]
  omega

theorem dropBits_bitBuf (n : Nat) (r : BitReader) : (dropBits n r).bitBuf.toNat = r.bitBuf.toNat / 2 ^ n := by
  rw [dropBits, BitVec.toNat_ushiftRight, Nat.shiftRight_eq_div_pow]

theorem held_dropBits {l : Launch} {n : Nat} {r : BitReader} (h : Held l r) (hn : n ≤ r.bitCount.toNat) :
    Held l (dropBits n r) := by
  have hc := dropBits_bitCount hn
  have hp := h.pulled
  refine ⟨h.within, ?_, ?_, fun k hk0 hk8 hkc => ?_⟩
  · rw [hc]; exact (Nat.sub_le _ _).trans hp
  · rw [dropBits_bitBuf, hc, Nat.div_lt_iff_lt_mul (Nat.two_pow_pos _), ← pow_add, Nat.sub_add_cancel hn]
    exact h.fits
  · have hk := h.high k hk0 hk8 (by omega)
    rw [dropBits_bitBuf, hc, Nat.div_div_eq_div_mul, ← pow_add]
    refine hk.trans ?_
    congr 3
    omega

theorem readerPos_dropBits {l : Launch} {n : Nat} {r : BitReader} (h : Held l r) (hn : n ≤ r.bitCount.toNat) :
    readerPos (dropBits n r) = readerPos r + n := by
  have hp := h.pulled
  have hb : (dropBits n r).bytePos = r.bytePos := rfl
  unfold readerPos
  rw [dropBits_bitCount hn, hb]
  omega

/-- READ keeps I-BR and moves `bitpos` on by the bits it takes (40 R91, R94). -/
theorem readBits_readerInv {l : Launch} {n v : Nat} {r r' : BitReader} (hn : n ≤ 32) (h : ReaderInv l r)
    (hr : readBits l n r = .ok (v, r')) : ReaderInv l r' ∧ readerPos r' = readerPos r + n := by
  obtain ⟨q, hq, -, hr'⟩ := readBits_ok hr
  rw [show r' = dropBits n q from hr']
  have h7 : r.bitCount.toNat ≤ 7 := h.2.1
  obtain ⟨hheld, hpos, hle, hge⟩ := pullBytes_held hn (held_of_readerInv h) (by omega) hq
  have hge := hge (by omega)
  refine ⟨readerInv_of_held (held_dropBits hheld hge) ?_, ?_⟩
  · rw [dropBits_bitCount hge]; omega
  · rw [← hpos]; exact readerPos_dropBits hheld hge

/-- ALIGN keeps I-BR, does not move `bitpos` back, and ends at a byte boundary (40 R93, R94). -/
theorem alignReader_readerInv {l : Launch} {r : BitReader} (h : ReaderInv l r) :
    ReaderInv l (alignReader r) ∧ readerPos r ≤ readerPos (alignReader r) ∧ 8 ∣ readerPos (alignReader r) := by
  have h7 : r.bitCount.toNat ≤ 7 := h.2.1
  have hheld := held_of_readerInv h
  have hle : r.bitCount.toNat % 8 ≤ r.bitCount.toNat := Nat.mod_le _ _
  have hcount : (alignReader r).bitCount.toNat = 0 := by rw [alignReader_bitCount]; omega
  have hpos : readerPos (alignReader r) = readerPos r + r.bitCount.toNat % 8 := readerPos_dropBits hheld hle
  refine ⟨readerInv_of_held (held_dropBits hheld hle) (by exact hcount ▸ by decide), by omega, ?_⟩
  rw [readerPos, hcount]
  exact ⟨_, rfl⟩

/-- At a byte boundary no bit is held. -/
theorem bitCount_eq_zero {l : Launch} {r : BitReader} (h : ReaderInv l r) (hp : 8 ∣ readerPos r) :
    r.bitCount = 0#6 := by
  have h7 : r.bitCount.toNat ≤ 7 := h.2.1
  have hpulled := (held_of_readerInv h).pulled
  unfold readerPos at hp
  exact BitVec.eq_of_toNat_eq (by simp; omega)

/-- Where no bit is held the reader is at a byte boundary. -/
theorem dvd_readerPos {r : BitReader} (h : r.bitCount = 0#6) : 8 ∣ readerPos r := by
  simp [readerPos, h]

/-- The bits consumed are bits of the input. -/
theorem readerPos_le {l : Launch} {r : BitReader} (h : ReaderInv l r) : readerPos r ≤ 8 * l.inLen.toNat := by
  have hin : r.bytePos.toNat ≤ l.inLen.toNat := h.1
  unfold readerPos
  omega

/-! ### Programs of READs and ALIGNs -/

/-- Every answer of the program satisfies `P`, whatever the bits are. -/
def Answers {α : Type} (P : α → Prop) : BitProg α → Prop
  | .done a => P a
  | .reject _ => True
  | .read _ k => ∀ v, Answers P (k v)
  | .align k => Answers P k

/-- Every READ of the program is one that R91 allows. -/
def Narrow {α : Type} : BitProg α → Prop
  | .done _ => True
  | .reject _ => True
  | .read n k => n ≤ 32 ∧ ∀ v, Narrow (k v)
  | .align k => Narrow k

/-- Every answer of the program comes after at least one bit. -/
def TakesBits {α : Type} : BitProg α → Prop
  | .done _ => False
  | .reject _ => True
  | .read n k => 0 < n ∨ ∀ v, TakesBits (k v)
  | .align k => TakesBits k

theorem answers_bind {α β : Type} {P : β → Prop} (p : BitProg α) {f : α → BitProg β}
    (h : ∀ a, Answers P (f a)) : Answers P (p.bind f) := by
  induction p with
  | done a => exact h a
  | reject e => trivial
  | read n k ih => exact fun v => ih v
  | align k ih => exact ih

theorem narrow_bind {α β : Type} {p : BitProg α} {f : α → BitProg β} (hp : Narrow p)
    (h : ∀ a, Narrow (f a)) : Narrow (p.bind f) := by
  induction p with
  | done a => exact h a
  | reject e => trivial
  | read n k ih => exact ⟨hp.1, fun v => ih v (hp.2 v)⟩
  | align k ih => exact ih hp

theorem takesBits_bind {α β : Type} {p : BitProg α} {f : α → BitProg β} (hp : TakesBits p) :
    TakesBits (p.bind f) := by
  induction p with
  | done a => exact hp.elim
  | reject e => trivial
  | read n k ih => exact hp.imp_right fun h v => ih v (h v)
  | align k ih => exact ih hp

/-- A program's answer satisfies what every answer satisfies. -/
theorem answers_runProg {α : Type} {P : α → Prop} {l : Launch} {p : BitProg α} {r r' : BitReader} {a : α}
    (hP : Answers P p) (h : runProg l p r = .ok (a, r')) : P a := by
  induction p generalizing r with
  | done b => cases h; exact hP
  | reject e => cases h
  | read n k ih =>
    simp only [runProg] at h
    split at h
    · exact ih _ (hP _) h
    · cases h
  | align k ih => exact ih hP h

/-- A program keeps I-BR and does not move `bitpos` back. -/
theorem runProg_readerInv {α : Type} {l : Launch} {p : BitProg α} {r r' : BitReader} {a : α}
    (hp : Narrow p) (hr : ReaderInv l r) (h : runProg l p r = .ok (a, r')) :
    ReaderInv l r' ∧ readerPos r ≤ readerPos r' := by
  induction p generalizing r with
  | done b => cases h; exact ⟨hr, le_rfl⟩
  | reject e => cases h
  | read n k ih =>
    simp only [runProg] at h
    split at h
    · rename_i v q hq
      obtain ⟨hqi, hqp⟩ := readBits_readerInv hp.1 hr hq
      obtain ⟨hi, hle⟩ := ih _ (hp.2 _) hqi h
      exact ⟨hi, by omega⟩
    · cases h
  | align k ih =>
    obtain ⟨hqi, hqp, -⟩ := alignReader_readerInv hr
    obtain ⟨hi, hle⟩ := ih hp hqi h
    exact ⟨hi, hqp.trans hle⟩

/-- A program that takes a bit moves `bitpos` forward. -/
theorem runProg_readerPos_lt {α : Type} {l : Launch} {p : BitProg α} {r r' : BitReader} {a : α}
    (hp : Narrow p) (ht : TakesBits p) (hr : ReaderInv l r) (h : runProg l p r = .ok (a, r')) :
    readerPos r < readerPos r' := by
  induction p generalizing r with
  | done b => exact ht.elim
  | reject e => cases h
  | read n k ih =>
    simp only [runProg] at h
    split at h
    · rename_i v q hq
      obtain ⟨hqi, hqp⟩ := readBits_readerInv hp.1 hr hq
      rcases ht with hpos | ht
      · have hle := (runProg_readerInv (hp.2 _) hqi h).2
        omega
      · have hlt := ih _ (hp.2 _) (ht _) hqi h
        omega
    · cases h
  | align k ih =>
    obtain ⟨hqi, hqp, -⟩ := alignReader_readerInv hr
    exact hqp.trans_lt (ih hp ht hqi h)

end Sys2Proof.Machine

/-! ## What a fetch can answer

The element belongs to the phase (10_state R15, 30_encoding R66, R79); the fetch takes at least one bit and keeps
I-BR. -/

namespace Sys2Proof.Machine

open Sys2Proof

/-! ### The element of a decoded symbol -/

theorem shape_of_clInstr {sym : BitVec 5} {i : Instr} (h : clInstr sym = some i) : shape i = .clSym sym := by
  unfold clInstr at h
  split at h
  · cases h
    simp only [shape, Shape.clSym.injEq]
    exact BitVec.eq_of_toNat_eq (by simp; omega)
  · have hrows : ∀ k < 3, ([Instr.cl16, .cl17, .cl18][k]?).map shape = some (.clSym (BitVec.ofNat 5 (16 + k))) := by
      decide
    have hk : sym.toNat - 16 < 3 := (List.getElem?_eq_some_iff.mp h).1
    have hrow := hrows _ hk
    rw [h, Nat.add_sub_of_le (by omega), BitVec.ofNat_toNat, BitVec.setWidth_eq] at hrow
    exact Option.some.inj hrow

theorem shape_of_llInstr {sym : BitVec 9} {i : Instr} (h : llInstr sym = some i) : shape i = .llSym sym := by
  unfold llInstr at h
  split at h
  · cases h
    simp only [shape, Shape.llSym.injEq]
    exact BitVec.eq_of_toNat_eq (by simp; omega)
  · have hrows : ∀ k < 32, (llInstrs[k]?).map shape = some (.llSym (BitVec.ofNat 9 (256 + k))) := by decide
    have hk : sym.toNat - 256 < 32 := (List.getElem?_eq_some_iff.mp h).1
    have hrow := hrows _ hk
    rw [h, Nat.add_sub_of_le (by omega), BitVec.ofNat_toNat, BitVec.setWidth_eq] at hrow
    exact Option.some.inj hrow

theorem shape_of_dInstr {sym : BitVec 5} {i : Instr} (h : dInstr sym = some i) : shape i = .dSym sym := by
  have hrows : ∀ k < 32, (dInstrs[k]?).map shape = some (.dSym (BitVec.ofNat 5 k)) := by decide
  have hrow := hrows _ sym.isLt
  rw [show dInstrs[sym.toNat]? = some i from h, BitVec.ofNat_toNat, BitVec.setWidth_eq] at hrow
  exact Option.some.inj hrow

/-- The fixed form of a symbol stands for that symbol (R71). -/
theorem shape_of_fixedLlInstr {sym : BitVec 9} {i : Instr} (h : fixedLlInstr sym = some i) :
    ∃ len code, shape i = .fixedLl len code sym := by
  unfold fixedLlInstr at h
  simp only at h
  split_ifs at h <;> cases h <;>
    exact ⟨_, _, congrArg (Shape.fixedLl _ _) (BitVec.eq_of_toNat_eq (by simp; omega))⟩

/-! ### What the decoder's programs answer and read -/

theorem answers_instrOr {P : Instr → Prop} {o : Option Instr} (h : ∀ i, o = some i → P i) :
    Answers P (instrOr o) := by
  cases o with
  | none => trivial
  | some i => exact h i rfl

theorem answers_symbolProg {c : DecodeCtx} (hc : c.phase = .symbol) :
    Answers (fun i => admits c i = true) (symbolProg c) := by
  unfold symbolProg
  split
  · refine answers_bind _ fun sym => ?_
    split
    · simp [Answers, admits, shape, *]
    · exact answers_instrOr fun i hi => by simp [admits, shape_of_dInstr hi, *]
  · refine answers_bind _ fun sym => ?_
    split
    · refine answers_instrOr fun i hi => ?_
      obtain ⟨len, code, hs⟩ := shape_of_fixedLlInstr hi
      simp only [admits, hs]
      simp [*]
    · exact answers_instrOr fun i hi => by simp [admits, shape_of_llInstr hi, *]

theorem answers_blockProg {c : DecodeCtx} (hc : c.phase = .blockHdr) :
    Answers (fun i => admits c i = true) blockProg := by
  intro bfinal btype
  simp only [Answers]
  split_ifs <;> simp [admits, shape, hc]

/-- What is taken from the stream is an element of the phase (R79). -/
theorem answers_elementProg (c : DecodeCtx) : Answers (fun i => admits c i = true) (elementProg c) := by
  cases hc : c.phase <;> simp only [elementProg, hc]
  case zhdr => exact fun _ _ => by simp [Answers, admits, shape, hc]
  case blockHdr => exact answers_blockProg hc
  case storedHdr => exact fun _ _ => by simp [Answers, admits, shape, hc]
  case storedCopy => exact fun _ => by simp [Answers, admits, shape, hc]
  case dynHdr => exact fun _ _ _ => by simp [Answers, admits, shape, hc]
  case dynClen => exact fun _ => by simp [Answers, admits, shape, hc]
  case dynLengths =>
    exact answers_bind _ fun sym => answers_instrOr fun i hi => by simp [admits, shape_of_clInstr hi, hc]
  case symbol => exact answers_symbolProg hc
  case trailer => exact fun _ _ _ _ => by simp [Answers, admits, shape, hc]
  all_goals trivial

theorem narrow_decodeSymbol {w : Nat} (T : HuffTable w) (k l code first idx : Nat) :
    Narrow (decodeSymbol T k l code first idx) := by
  induction k generalizing l code first idx with
  | zero => trivial
  | succ k ih =>
    refine ⟨by decide, fun bit => ?_⟩
    show Narrow (ite _ _ _)
    split
    · split <;> trivial
    · exact ih _ _ _ _

theorem narrow_instrOr (o : Option Instr) : Narrow (instrOr o) := by
  cases o <;> trivial

theorem narrow_decodeProg_bind {w : Nat} (T : HuffTable w) {f : BitVec w → BitProg Instr}
    (h : ∀ sym, Narrow (f sym)) : Narrow ((decodeProg T).bind f) :=
  narrow_bind (narrow_decodeSymbol T _ _ _ _ _) h

theorem narrow_symbolProg (c : DecodeCtx) : Narrow (symbolProg c) := by
  unfold symbolProg
  split
  · refine narrow_decodeProg_bind _ fun sym => ?_
    split
    · trivial
    · exact narrow_instrOr _
  · refine narrow_decodeProg_bind _ fun sym => ?_
    split <;> exact narrow_instrOr _

theorem narrow_elementProg (c : DecodeCtx) : Narrow (elementProg c) := by
  cases hc : c.phase <;> simp only [elementProg, hc]
  case dynLengths => exact narrow_decodeProg_bind _ fun _ => narrow_instrOr _
  case symbol => exact narrow_symbolProg c
  all_goals simp [Narrow, zhdrProg, blockProg, storedHdrProg, storedByteProg, dynHdrProg, clenProg, adler32Prog]

/-- DECODE begins with a bit (42 R111). -/
theorem takesBits_decodeProg {w : Nat} (T : HuffTable w) : TakesBits (decodeProg T) := .inl Nat.one_pos

theorem takesBits_elementProg (c : DecodeCtx) : TakesBits (elementProg c) := by
  cases hc : c.phase <;> simp only [elementProg, hc]
  case dynLengths => exact takesBits_bind (takesBits_decodeProg _)
  case symbol => unfold symbolProg; split <;> exact takesBits_bind (takesBits_decodeProg _)
  all_goals simp [TakesBits, zhdrProg, blockProg, storedHdrProg, storedByteProg, dynHdrProg, clenProg, adler32Prog]

/-! ### The fetch -/

/-- The fetched element belongs to the phase, the block's type and the due half of a match. -/
theorem fetch_admits {s s' : State} {i : Instr} (h : fetch s = .ok (i, s')) : admits s.ctx i = true := by
  obtain ⟨r, hr, -⟩ := fetch_ok h
  exact answers_runProg (P := fun i => admits s.ctx i = true) (answers_elementProg s.ctx) hr

/-- The fetch keeps I-BR and moves `bitpos` forward. -/
theorem fetch_readerInv {s s' : State} {i : Instr} (hi : ReaderInv s.launch s.reader)
    (h : fetch s = .ok (i, s')) : ReaderInv s.launch s'.reader ∧ s.bitpos < s'.bitpos := by
  obtain ⟨r, hr, rfl⟩ := fetch_ok h
  exact ⟨(runProg_readerInv (narrow_elementProg _) hi hr).1,
    runProg_readerPos_lt (narrow_elementProg _) (takesBits_elementProg _) hi hr⟩

/-- After a stored block's header, aligned and of 32 bits, and after each of its bytes no bit is held (43 R125,
R127). -/
theorem fetch_stored_bitCount {s s' : State} {i : Instr} (hi : ReaderInv s.launch s.reader)
    (hp : s.control.phase = .storedHdr ∨ s.control.phase = .storedCopy ∧ s.reader.bitCount = 0#6)
    (h : fetch s = .ok (i, s')) : s'.reader.bitCount = 0#6 := by
  obtain ⟨r, hr, rfl⟩ := fetch_ok h
  refine bitCount_eq_zero (l := s.launch) (runProg_readerInv (narrow_elementProg _) hi hr).1 ?_
  rcases hp with hp | ⟨hp, hc⟩
  · simp only [elementProg, State.ctx, hp, storedHdrProg, runProg] at hr
    obtain ⟨hai, -, hdvd⟩ := alignReader_readerInv hi
    split at hr
    · rename_i v q hq
      obtain ⟨hqi, hqp⟩ := readBits_readerInv (by decide) hai hq
      split at hr
      · rename_i v' q' hq'
        obtain ⟨-, hqp'⟩ := readBits_readerInv (by decide) hqi hq'
        cases hr
        simp only [State.setReader_reader]
        omega
      · cases hr
    · cases hr
  · simp only [elementProg, State.ctx, hp, storedByteProg, runProg] at hr
    have hdvd := dvd_readerPos hc
    split at hr
    · rename_i v q hq
      obtain ⟨-, hqp⟩ := readBits_readerInv (by decide) hi hq
      cases hr
      simp only [State.setReader_reader]
      omega
    · cases hr

/-- A program stops with a fault of the engine that has a code, or with a stop of the model's. -/
theorem runProg_error_ne {α : Type} {l : Launch} {p : BitProg α} {r : BitReader} {stop : Stop}
    (h : runProg l p r = .error stop) : stop ≠ .raise .none := by
  induction p generalizing r with
  | done a => cases h
  | reject e => cases h; cases e <;> simp [stopOf]
  | read n k ih =>
    simp only [runProg] at h
    split at h
    · exact ih _ h
    · rename_i e he
      cases h
      rcases readBits_error he with rfl | rfl <;> simp
  | align k ih => exact ih h

theorem fetch_error_ne {s : State} {stop : Stop} (h : fetch s = .error stop) : stop ≠ .raise .none := by
  unfold fetch at h
  split at h
  · cases h
  · rename_i e he
    cases h
    exact runProg_error_ne he

end Sys2Proof.Machine

/-! ## What an instruction can do

One inversion lemma for `exec` (`exec_effect`): every next state is one of the effects listed in `Effect`. -/

namespace Sys2Proof.Machine

open Sys2Proof

/-! ### Symbols by their number -/

/-- The number of a literal/length symbol, in its own or in its fixed form. -/
def litlenNumber (i : Instr) : Option Nat :=
  match shape i with
  | .word _ _ => none
  | .clSym _ => none
  | .llSym sym => some sym.toNat
  | .dSym _ => none
  | .fixedLl _ _ sym => some sym.toNat
  | .fixedD _ => none

/-- The number of a distance symbol, in its own or in its fixed form. -/
def distNumber (i : Instr) : Option Nat :=
  match shape i with
  | .word _ _ => none
  | .clSym _ => none
  | .llSym _ => none
  | .dSym sym => some sym.toNat
  | .fixedLl _ _ _ => none
  | .fixedD sym => some sym.toNat

/-- A literal/length instruction does what the symbol of its number does (R81, log 7). -/
theorem exec_eq_runLitlen {i : Instr} {n : Nat} (h : litlenNumber i = some n) (s : State) :
    exec i s = runLitlen n s := by
  cases i <;> simp only [litlenNumber, shape, Option.some.injEq, reduceCtorEq] at h <;> subst h
  case lit b =>
    have hb : (b.setWidth 9).toNat = b.toNat := by simp; omega
    rw [runLitlen, hb, if_pos b.isLt, BitVec.ofNat_toNat, BitVec.setWidth_eq]
    rfl
  case fixedLl256To271 x | fixedLl272To279 x | fixedLl0To15 x | fixedLl16To79 x | fixedLl80To143 x
      | fixedLl280To287 x | fixedLl144To159 x | fixedLl160To191 x | fixedLl192To255 x =>
    rw [BitVec.toNat_ofNat, Nat.mod_eq_of_lt (by omega)]
    rfl
  all_goals rfl

/-- A distance instruction does what the symbol of its number does (R81, log 7). -/
theorem exec_eq_runDist {i : Instr} {n : Nat} (h : distNumber i = some n) (s : State) :
    exec i s = runDist n s := by
  cases i <;> simp only [distNumber, shape, Option.some.injEq, reduceCtorEq] at h <;> subst h <;> rfl

/-- A symbol below 256 is a literal (45 R161). -/
theorem runLitlen_literal {n : Nat} (h : n < 256) (s : State) :
    runLitlen n s = settle s (outAppend (BitVec.ofNat 8 n) s) := if_pos h

/-- Symbol 256 ends the block (45 R162). -/
theorem runLitlen_endOfBlock (s : State) : runLitlen 256 s = .next (endOfBlock s) := rfl

/-- Symbols 257 to 285 read a length by the row of R75 (45 R163). -/
theorem runLitlen_length {k : Nat} (h : k < 29) (s : State) :
    runLitlen (257 + k) s = lengthSymbol (lbase.getD k 0) (lext.getD k 0) s := by
  interval_cases k <;> rfl

/-- Symbols 286 and 287 fault (45 R165). -/
theorem runLitlen_reserved {n : Nat} (h : n = 286 ∨ n = 287) (s : State) :
    runLitlen n s = settle s (.error (.raise .litlenSymbol)) := by
  rcases h with rfl | rfl <;> rfl

/-- The alphabet ends at 287. -/
theorem runLitlen_outside {n : Nat} (h : 288 ≤ n) (s : State) :
    runLitlen n s = .fault .symbolOutsideAlphabet := by
  have hnone : litlenMeanings[n - 256]? = none := List.getElem?_eq_none (by simp [litlenMeanings]; omega)
  simp [runLitlen, hnone, Nat.not_lt.mpr (show 256 ≤ n by omega)]

/-- Symbols 0 to 29 read a distance by the row of R76 (45 R163). -/
theorem runDist_distance {k : Nat} (h : k < 30) (s : State) :
    runDist k s = distanceSymbol (dbase.getD k 0) (dext.getD k 0) s := by
  interval_cases k <;> rfl

/-- Symbols 30 and 31 fault (45 R166). -/
theorem runDist_reserved {n : Nat} (h : n = 30 ∨ n = 31) (s : State) :
    runDist n s = settle s (.error (.raise .distSymbol)) := by
  rcases h with rfl | rfl <;> rfl

/-- The alphabet ends at 31. -/
theorem runDist_outside {n : Nat} (h : 32 ≤ n) (s : State) : runDist n s = .fault .symbolOutsideAlphabet := by
  have hnone : distMeanings[n]? = none := List.getElem?_eq_none (by simp [distMeanings]; omega)
  simp [runDist, hnone]

/-- No length has more than 5 extra bits (R75). -/
theorem lext_le (k : Nat) : lext.getD k 0 ≤ 32 := by
  have hrows : ∀ k < 29, lext.getD k 0 ≤ 32 := by decide
  by_cases hk : k < 29
  · exact hrows k hk
  · simp [List.getD, List.getElem?_eq_none (show lext.length ≤ k by simp [lext]; omega)]

/-- No distance has more than 13 extra bits (R76). -/
theorem dext_le (k : Nat) : dext.getD k 0 ≤ 32 := by
  have hrows : ∀ k < 30, dext.getD k 0 ≤ 32 := by decide
  by_cases hk : k < 30
  · exact hrows k hk
  · simp [List.getD, List.getElem?_eq_none (show dext.length ≤ k by simp [dext]; omega)]

/-! ### The effects -/

/-- The dynamic-header registers after one code-length field (44 R142). -/
def clenPlaced (v : BitVec 3) (sym : Nat) (d : Dynamic) : Dynamic :=
  { d with clLengths := d.clLengths.setIfInBounds sym v, clIdx := d.clIdx + 1#5 }

/-- What an instruction's next state can be: the instructions of one kind share an effect. -/
inductive Effect (s : State) (i : Instr) : State → Prop
  /-- Entry of a fault (60 R288). -/
  | fault (e : ErrCode) (he : e ≠ .none) : Effect s i (takeFault e s)
  /-- The zlib header passes its checks (46 R241). -/
  | zhdr (hi : wordPhase i = some .zhdr) : Effect s i (s.setPhase .blockHdr)
  /-- A block header is latched (43 R120). -/
  | block (bfinal : BitVec 1) (btype : BitVec 2) (p : Phase) (hi : wordPhase i = some .blockHdr)
      (hp : (btype, p) ∈ [(0#2, Phase.storedHdr), (1#2, .fixedSetup), (2#2, .dynHdr)]) :
      Effect s i (latchBlock bfinal btype p s)
  /-- A stored block's lengths are latched (43 R125, R126). -/
  | storedHdr (len nlen : BitVec 16) (hi : wordPhase i = some .storedHdr) :
      Effect s i ((s.setBlock { s.block with len := len, nlen := nlen, copyRem := len }).setPhase
        (if len = 0#16 then phaseAfterBlock s.block else .storedCopy))
  /-- A stored byte is appended and counted (43 R127). -/
  | storedByte (b : Byte) (s' : State) (hi : wordPhase i = some .storedCopy) (ha : outAppend b s = .ok s') :
      Effect s i (countStored s')
  /-- A dynamic header is latched (44 R140). -/
  | dynHdr (hlit hdist : BitVec 5) (hclen : BitVec 4) (hi : wordPhase i = some .dynHdr) :
      Effect s i ((s.setDyn { s.dyn with
        hlit := hlit, hdist := hdist, hclen := hclen, clIdx := 0#5
        clLengths := Vector.replicate 19 0#3 }).setPhase .dynClen)
  /-- A code-length field that is not the last (44 R142). -/
  | clen (v : BitVec 3) (sym : Nat) (hi : wordPhase i = some .dynClen) (hs : clOrder[s.dyn.clIdx.toNat]? = some sym)
      (hn : (s.dyn.clIdx + 1#5).toNat ≠ nCode s.dyn) : Effect s i (s.setDyn (clenPlaced v sym s.dyn))
  /-- The last code-length field builds `T_CL` (44 R143). -/
  | clenLast (v : BitVec 3) (sym : Nat) (hi : wordPhase i = some .dynClen) :
      Effect s i (((s.setDyn { clenPlaced v sym s.dyn with lenIdx := 0#9 }).setTables
        { s.tables with
          tCl := tableOf 5 ((clenPlaced v sym s.dyn).clLengths.toList.map BitVec.toNat) }).setPhase .dynLengths)
  /-- One code length (44 R145). -/
  | oneLength (v : BitVec 4) (hi : isClSymbol i = true) : Effect s i (appendLengths v 1 s)
  /-- A repeat (44 R146 to R149). -/
  | repeated (v : BitVec 4) (base e x : Nat) (r : BitReader) (hi : isClSymbol i = true) (hx : readsExtra i = true)
      (he : e ≤ 32) (hr : readBits s.launch e s.reader = .ok (x, r))
      (hle : s.dyn.lenIdx.toNat + (base + x) ≤ nLl s.dyn + nD s.dyn) :
      Effect s i (appendLengths v (base + x) (s.setReader r))
  /-- A literal (45 R161). -/
  | literal (b : Byte) (t : State) (n : Nat) (hi : litlenNumber i = some n) (ha : outAppend b s = .ok t) :
      Effect s i t
  /-- The end of a block (45 R162). -/
  | endOfBlock (n : Nat) (hi : litlenNumber i = some n) : Effect s i (endOfBlock s)
  /-- The first half of a match (45 R163). -/
  | length (n : Nat) (len : BitVec 9) (e x : Nat) (r : BitReader) (hi : litlenNumber i = some n) (hn : 257 ≤ n)
      (he : e ≤ 32) (hr : readBits s.launch e s.reader = .ok (x, r)) :
      Effect s i ((s.setReader r).setMatchLen (some len))
  /-- The second half of a match (45 R163, R164). -/
  | distance (n distance e x : Nat) (len : BitVec 9) (r : BitReader) (t : State) (hi : distNumber i = some n)
      (hm : s.matchLen = some len) (he : e ≤ 32) (hr : readBits s.launch e s.reader = .ok (x, r))
      (hc : copyMatch distance len.toNat ((s.setReader r).setMatchLen none) = .ok t) : Effect s i t
  /-- The trailer agrees (46 R248). -/
  | trailer (hi : wordPhase i = some .trailer) :
      Effect s i (s.setControl { s.control with phase := .done, status := .done })

/-- A settled meaning that raises no fault without a code is an effect when its own state is one. -/
theorem effect_of_settle {s t : State} {i : Instr} {r : Res State} (h : settle s r = .next t)
    (hok : r = .ok t → Effect s i t) (hraise : r ≠ .error (.raise .none)) : Effect s i t := by
  rcases settle_next h with h | ⟨e, he, rfl⟩
  · exact hok h
  · exact .fault e fun h0 => hraise (h0 ▸ he)

theorem readOperand_error_ne {base e : Nat} {s : State} {stop : Stop} (h : readOperand base e s = .error stop) :
    stop ≠ .raise .none := by
  rcases readOperand_error h with rfl | rfl <;> simp

theorem copyMatch_error_ne {distance k : Nat} {s : State} : copyMatch distance k s ≠ .error (.raise .none) := by
  intro h
  rcases copyMatch_error h with h | h <;> cases h

theorem outAppend_error_ne {b : Byte} {s : State} : outAppend b s ≠ .error (.raise .none) := by
  intro h
  obtain ⟨h, -⟩ := outAppend_error h
  cases h

theorem repeatLengths_error_ne {v : BitVec 4} {base e : Nat} {s : State} :
    repeatLengths v base e s ≠ .error (.raise .none) := by
  unfold repeatLengths
  split
  · split <;> simp
  · rename_i stop hs
    simpa using readOperand_error_ne hs

theorem lengthSymbol_effect {i : Instr} {n base e : Nat} {s t : State} (hi : litlenNumber i = some n)
    (hn : 257 ≤ n) (he : e ≤ 32) (h : lengthSymbol base e s = .next t) : Effect s i t := by
  refine effect_of_settle h (fun hok => ?_) ?_
  · split at hok
    · rename_i len s' hr
      obtain ⟨x, r, hx, -, rfl⟩ := readOperand_ok hr
      cases hok
      exact .length n _ e x r hi hn he hx
    · cases hok
  · split
    · simp
    · rename_i stop hs
      simpa using readOperand_error_ne hs

theorem distanceSymbol_effect {i : Instr} {n base e : Nat} {s t : State} (hi : distNumber i = some n)
    (he : e ≤ 32) (h : distanceSymbol base e s = .next t) : Effect s i t := by
  unfold distanceSymbol at h
  split at h
  · cases h
  · rename_i len hm
    refine effect_of_settle h (fun hok => ?_) ?_
    · split at hok
      · rename_i d s' hr
        obtain ⟨x, r, hx, -, rfl⟩ := readOperand_ok hr
        split at hok
        · cases hok
        · exact .distance n d e x len r t hi hm he hx hok
      · cases hok
    · split
      · split
        · simp
        · exact copyMatch_error_ne
      · rename_i stop hs
        simpa using readOperand_error_ne hs

theorem runLitlen_effect {i : Instr} {n : Nat} {s t : State} (hi : litlenNumber i = some n)
    (h : runLitlen n s = .next t) : Effect s i t := by
  by_cases hlit : n < 256
  · rw [runLitlen_literal hlit] at h
    exact effect_of_settle h (.literal _ t n hi) outAppend_error_ne
  · by_cases heob : n = 256
    · subst heob
      rw [runLitlen_endOfBlock] at h
      cases h
      exact .endOfBlock _ hi
    · by_cases hlen : n < 286
      · obtain ⟨k, rfl⟩ := Nat.exists_eq_add_of_le (show 257 ≤ n by omega)
        rw [runLitlen_length (by omega)] at h
        exact lengthSymbol_effect hi (by omega) (lext_le k) h
      · by_cases hres : n < 288
        · rw [runLitlen_reserved (by omega), settle_raise] at h
          cases h
          exact .fault _ (by simp)
        · rw [runLitlen_outside (by omega)] at h
          cases h

theorem runDist_effect {i : Instr} {n : Nat} {s t : State} (hi : distNumber i = some n)
    (h : runDist n s = .next t) : Effect s i t := by
  by_cases hdist : n < 30
  · rw [runDist_distance hdist] at h
    exact distanceSymbol_effect hi (dext_le n) h
  · by_cases hres : n < 32
    · rw [runDist_reserved (by omega), settle_raise] at h
      cases h
      exact .fault _ (by simp)
    · rw [runDist_outside (by omega)] at h
      cases h

theorem execZhdr_effect {cm cinfo : BitVec 4} {fcheck : BitVec 5} {fdict : BitVec 1} {flevel : BitVec 2}
    {s t : State} (h : execZhdr cm cinfo fcheck fdict flevel s = .next t) :
    Effect s (.zhdr cm cinfo fcheck fdict flevel) t := by
  refine effect_of_settle h (fun hok => ?_) ?_
  · split_ifs at hok
    cases hok
    exact .zhdr rfl
  · split_ifs <;> simp

theorem execStoredHdr_effect {len nlen : BitVec 16} {s t : State} (h : execStoredHdr len nlen s = .next t) :
    Effect s (.storedHdr len nlen) t := by
  refine effect_of_settle h (fun hok => ?_) ?_
  · have heff : Effect s (.storedHdr len nlen) _ := .storedHdr len nlen rfl
    split_ifs at hok with hstrict hlen <;> cases hok
    · rwa [if_pos hlen] at heff
    · rwa [if_neg hlen] at heff
  · split_ifs <;> simp

theorem execStoredByte_effect {b : Byte} {s t : State} (h : execStoredByte b s = .next t) :
    Effect s (.storedByte b) t := by
  refine effect_of_settle h (fun hok => ?_) ?_
  · split at hok
    · rename_i s' ha
      cases hok
      exact .storedByte b s' rfl ha
    · cases hok
  · split
    · simp
    · rename_i stop ha
      obtain ⟨rfl, -⟩ := outAppend_error ha
      simp

theorem execClen_effect {v : BitVec 3} {s t : State} (h : execClen v s = .next t) : Effect s (.clen v) t := by
  unfold execClen at h
  split at h
  · cases h
  · rename_i sym hs
    simp only at h
    split_ifs at h with hn
    · refine effect_of_settle h (fun hok => ?_) ?_
      · split at hok
        · rename_i T hT
          cases hok
          obtain ⟨rfl, -⟩ := build_ok hT
          exact .clenLast v sym rfl
        · cases hok
      · split
        · simp
        · rename_i stop hT
          rw [build_error hT]
          simp
    · cases h
      exact .clen v sym rfl hs hn

theorem repeatLengths_effect {i : Instr} {v : BitVec 4} {base e : Nat} {s t : State} (hi : isClSymbol i = true)
    (hx : readsExtra i = true) (he : e ≤ 32) (h : repeatLengths v base e s = .ok t) : Effect s i t := by
  obtain ⟨x, r, hr, hle, rfl⟩ := repeatLengths_ok h
  exact .repeated v base e x r hi hx he hr hle

theorem execClLen_effect {v : BitVec 4} {s t : State} (h : execClLen v s = .next t) : Effect s (.clLen v) t := by
  unfold execClLen at h
  split at h <;> cases h
  exact .oneLength v rfl

theorem execCl16_effect {s t : State} (h : execCl16 s = .next t) : Effect s .cl16 t := by
  refine effect_of_settle h (fun hok => ?_) ?_
  · split_ifs at hok
    exact repeatLengths_effect rfl rfl (by decide) hok
  · split_ifs
    · simp
    · exact repeatLengths_error_ne

theorem execAdler32_effect {bHi bLo aHi aLo : BitVec 8} {s t : State}
    (h : execAdler32 bHi bLo aHi aLo s = .next t) : Effect s (.adler32 bHi bLo aHi aLo) t := by
  refine effect_of_settle h (fun hok => ?_) ?_
  · split_ifs at hok
    cases hok
    exact .trailer rfl
  · split_ifs <;> simp

/-- The inversion lemma: an instruction's next state is one of the effects, and the instruction is of its kind. -/
theorem exec_effect {i : Instr} {s t : State} (h : exec i s = .next t) : Effect s i t := by
  cases hl : litlenNumber i with
  | some n => exact runLitlen_effect hl (exec_eq_runLitlen hl s ▸ h)
  | none =>
    cases hd : distNumber i with
    | some n => exact runDist_effect hd (exec_eq_runDist hd s ▸ h)
    | none =>
      cases i with
      | zhdr => exact execZhdr_effect h
      | blockStored bfinal => cases h; exact .block bfinal _ _ rfl (by simp)
      | blockFixed bfinal => cases h; exact .block bfinal _ _ rfl (by simp)
      | blockDynamic bfinal => cases h; exact .block bfinal _ _ rfl (by simp)
      | blockReserved => cases h; exact .fault _ (by simp)
      | storedHdr => exact execStoredHdr_effect h
      | storedByte => exact execStoredByte_effect h
      | dynHdr hlit hdist hclen => cases h; exact .dynHdr hlit hdist hclen rfl
      | clen => exact execClen_effect h
      | adler32 => exact execAdler32_effect h
      | clLen => exact execClLen_effect h
      | cl16 => exact execCl16_effect h
      | cl17 => exact effect_of_settle h (repeatLengths_effect rfl rfl (by decide)) repeatLengths_error_ne
      | cl18 => exact effect_of_settle h (repeatLengths_effect rfl rfl (by decide)) repeatLengths_error_ne
      | _ => simp [litlenNumber, distNumber, shape] at hl hd

end Sys2Proof.Machine

/-! ## Which instruction writes which register

Frames of the effects (10_state R13, R16), and what they say of a whole step. -/

namespace Sys2Proof.Machine

open Sys2Proof

theorem readsExtra_of_litlenNumber {i : Instr} {n : Nat} (h : litlenNumber i = some n) :
    readsExtra i = decide (257 ≤ n) := by
  revert h
  unfold litlenNumber readsExtra
  cases shape i <;> rintro ⟨⟩ <;> rfl

theorem isMatchHalf_of_litlenNumber {i : Instr} {n : Nat} (h : litlenNumber i = some n) :
    isMatchHalf i = decide (257 ≤ n) := by
  revert h
  unfold litlenNumber isMatchHalf
  cases shape i <;> rintro ⟨⟩ <;> rfl

theorem readsExtra_of_distNumber {i : Instr} {n : Nat} (h : distNumber i = some n) : readsExtra i = true := by
  revert h
  unfold distNumber readsExtra
  cases shape i <;> rintro ⟨⟩ <;> rfl

theorem isMatchHalf_of_distNumber {i : Instr} {n : Nat} (h : distNumber i = some n) : isMatchHalf i = true := by
  revert h
  unfold distNumber isMatchHalf
  cases shape i <;> rintro ⟨⟩ <;> rfl

/-- OUT_APPEND writes the output and the checksum, and nothing else (20 R47). -/
theorem outAppend_frame {b : Byte} {s t : State} (h : outAppend b s = .ok t) : t = s.setOut t.out t.adler := by
  obtain ⟨-, rfl⟩ := outAppend_ok h
  rfl

/-- Appended lengths: the entries, their number, and at `N_LL + N_D` the phase that builds the tables (44 R144). -/
theorem appendLengths_eq_setPhase (v : BitVec 4) (rep : Nat) (s : State) :
    appendLengths v rep s =
      (s.setDyn { s.dyn with
        lengths := fillLengths s.dyn.lenIdx.toNat v rep s.dyn.lengths
        lenIdx := s.dyn.lenIdx + BitVec.ofNat 9 rep }).setPhase
        (if (s.dyn.lenIdx + BitVec.ofNat 9 rep).toNat = nLl s.dyn + nD s.dyn then .dynBuild
          else s.control.phase) := by
  by_cases h : (s.dyn.lenIdx + BitVec.ofNat 9 rep).toNat = nLl s.dyn + nD s.dyn
  · rw [if_pos h]
    exact if_pos h
  · rw [if_neg h]
    exact if_neg h

/-- Settles O51: each effect changes the registers of its own kind of instruction. -/
theorem registersHaveOneWriter : Obligations.RegistersHaveOneWriter := by
  intro i s t h
  cases exec_effect h with
  | fault e he => exact .inl ⟨e, rfl⟩
  | zhdr hi => exact .inr (by simp)
  | block bfinal btype p hi hp => exact .inr (by simp [latchBlock, hi])
  | storedHdr len nlen hi => exact .inr (by simp [hi])
  | storedByte b s' hi ha =>
    rw [outAppend_frame ha, countStored_eq]
    exact .inr (by simp [hi])
  | dynHdr hlit hdist hclen hi => exact .inr (by simp [hi])
  | clen v sym hi hs hn => exact .inr (by simp [clenPlaced, hi])
  | clenLast v sym hi => exact .inr (by simp [clenPlaced, hi])
  | oneLength v hi =>
    rw [appendLengths_eq_setPhase]
    exact .inr (by simp [hi])
  | repeated v base e x r hi hx he hr hle =>
    rw [appendLengths_eq_setPhase]
    exact .inr (by simp [hi, hx])
  | literal b t n hi ha =>
    rw [outAppend_frame ha]
    exact .inr (by simp)
  | endOfBlock n hi => exact .inr (by simp [endOfBlock])
  | length n len e x r hi hn he hr =>
    exact .inr (by simp [readsExtra_of_litlenNumber hi, isMatchHalf_of_litlenNumber hi, hn])
  | distance n distance e x len r t hi hm he hr hc =>
    rw [copyMatch_frame hc]
    exact .inr (by simp [readsExtra_of_distNumber hi, isMatchHalf_of_distNumber hi])
  | trailer hi => exact .inr (by simp [hi])

/-! ### The phase of an element -/

theorem phase_of_wordPhase {c : DecodeCtx} {i : Instr} {p : Phase} (ha : admits c i = true)
    (h : wordPhase i = some p) : c.phase = p := by
  unfold wordPhase at h
  unfold admits at ha
  split at h <;> cases h
  rename_i hs
  simpa [hs] using ha

theorem phase_of_isClSymbol {c : DecodeCtx} {i : Instr} (ha : admits c i = true) (h : isClSymbol i = true) :
    c.phase = .dynLengths := by
  unfold isClSymbol at h
  unfold admits at ha
  split at h <;> cases h
  rename_i hs
  simpa [hs] using ha

/-- A literal/length symbol stands in `PH_SYMBOL` where no length is pending. -/
theorem phase_of_litlenNumber {c : DecodeCtx} {i : Instr} {n : Nat} (ha : admits c i = true)
    (h : litlenNumber i = some n) : c.phase = .symbol ∧ c.matchPending = false := by
  unfold litlenNumber at h
  unfold admits at ha
  split at h <;> cases h <;> simp_all

/-- A distance symbol stands in `PH_SYMBOL` where a length is pending. -/
theorem phase_of_distNumber {c : DecodeCtx} {i : Instr} {n : Nat} (ha : admits c i = true)
    (h : distNumber i = some n) : c.phase = .symbol ∧ c.matchPending = true := by
  unfold distNumber at h
  unfold admits at ha
  split at h <;> cases h <;> simp_all

/-! ### Fetch and effect -/

/-- Half a step or a whole one: a fault is entered, or an element of the phase is fetched and has its effect. -/
theorem fetchExec_effect {s t : State} (h : fetchExec s = .next t) :
    (∃ e, e ≠ .none ∧ t = takeFault e s) ∨
    ∃ i r, fetch s = .ok (i, s.setReader r) ∧ admits s.ctx i = true ∧ Effect (s.setReader r) i t := by
  unfold fetchExec at h
  split at h
  · rename_i i s' hf
    obtain ⟨r, -, rfl⟩ := fetch_ok hf
    exact .inr ⟨i, r, hf, fetch_admits hf, exec_effect h⟩
  · rename_i stop hf
    rcases settle_next h with h | ⟨e, he, rfl⟩
    · cases h
    · cases he
      exact .inl ⟨e, fun h0 => fetch_error_ne hf (h0 ▸ rfl), rfl⟩

/-- A length becomes pending by a length symbol only, which moves the bit reader and nothing else. -/
theorem effect_pending {s t : State} {i : Instr} (h : Effect s i t) (hs : s.matchLen = none)
    (ht : t.matchLen.isSome = true) :
    ∃ n r, litlenNumber i = some n ∧ t = (s.setReader r).setMatchLen t.matchLen := by
  have absurd_of_same (hsame : t.matchLen = s.matchLen) : False := by simp [hsame, hs] at ht
  cases h with
  | fault e he => cases ht
  | storedByte b s' hi ha =>
    refine (absurd_of_same ?_).elim
    rw [outAppend_frame ha, countStored_eq]
    rfl
  | oneLength v hi =>
    exact (absurd_of_same (by rw [appendLengths_eq_setPhase]; rfl)).elim
  | repeated v base e x r hi hx he hr hle =>
    exact (absurd_of_same (by rw [appendLengths_eq_setPhase]; rfl)).elim
  | literal b t n hi ha => exact (absurd_of_same (by rw [outAppend_frame ha]; rfl)).elim
  | length n len e x r hi hn he hr => exact ⟨n, r, hi, rfl⟩
  | distance n distance e x len r t hi hm he hr hc => simp [hm] at hs
  | _ => exact (absurd_of_same rfl).elim

/-- The first half of a match: a literal/length symbol in `PH_SYMBOL`, which leaves all but the bit reader. -/
theorem fetchExec_pending {s t : State} (h : fetchExec s = .next t) (hs : s.matchLen = none)
    (ht : t.matchLen.isSome = true) :
    s.control.phase = .symbol ∧ ∃ r, t = (s.setReader r).setMatchLen t.matchLen := by
  rcases fetchExec_effect h with ⟨e, -, rfl⟩ | ⟨i, r, -, ha, heff⟩
  · cases ht
  · obtain ⟨n, r', hi, heq⟩ := effect_pending heff hs ht
    exact ⟨(phase_of_litlenNumber ha hi).1, r', heq⟩

/-! ### `BFINAL` over a step -/

/-- An element outside `PH_BLOCK_HDR` leaves `BFINAL`, unless it faults. -/
theorem fetchExec_bfinal {s t : State} (h : fetchExec s = .next t) (hp : s.control.phase ≠ .blockHdr)
    (ht : t.control.phase ≠ .fault) : t.block.bfinal = s.block.bfinal := by
  rcases fetchExec_next h with ⟨i, s', hf, he⟩ | ⟨e, rfl⟩
  · rcases registersHaveOneWriter i s' t he with ⟨e, rfl⟩ | hframe
    · exact absurd rfl ht
    · obtain ⟨-, -, -, -, -, -, -, -, -, hblock, -⟩ := hframe
      have hi : wordPhase i ≠ some .blockHdr := fun hi => hp (phase_of_wordPhase (fetch_admits hf) hi)
      obtain ⟨r, -, rfl⟩ := fetch_ok hf
      exact (hblock hi).1
  · exact absurd rfl ht

theorem elementStep_bfinal {s t : State} (h : elementStep s = .next t) (hp : s.control.phase ≠ .blockHdr)
    (ht : t.control.phase ≠ .fault) : t.block.bfinal = s.block.bfinal := by
  rcases elementStep_next h with ⟨h, -⟩ | ⟨s', hfirst, hs, hs', hsecond⟩
  · exact fetchExec_bfinal h hp ht
  · obtain ⟨-, r, heq⟩ := fetchExec_pending hfirst hs hs'
    have hphase : s'.control.phase = s.control.phase := by rw [heq]; rfl
    have hblock : s'.block = s.block := by rw [heq]; rfl
    rw [fetchExec_bfinal hsecond (hphase ▸ hp) ht, hblock]

/-- The size check passes to the trailer or faults (46 R247). -/
theorem endCheck_next {s t : State} (h : endCheck s = .next t) :
    (s.out.outPos = s.launch.expectedLen ∧ t = s.setPhase .trailer) ∨ t = takeFault .sizeMismatch s := by
  unfold endCheck at h
  split_ifs at h with hpos
  · cases h
    exact .inr rfl
  · cases h
    exact .inl ⟨not_not.mp hpos, rfl⟩

theorem buildBlockTables_bfinal {litlen dist : List Nat} {s t : State} (h : buildBlockTables litlen dist s = .next t)
    (ht : t.control.phase ≠ .fault) : t.block.bfinal = s.block.bfinal := by
  rcases buildBlockTables_next h with rfl | rfl
  · rfl
  · exact absurd rfl ht

/-- What a step is, by the kind of its phase (46 R246). -/
theorem step_cases {s t : State} (h : step s = .next t) :
    (atRest s.control.phase = true ∧ t = s) ∨
    (s.control.phase = .fixedSetup ∧ fixedSetup s = .next t) ∨
    (s.control.phase = .dynBuild ∧ dynBuild s = .next t) ∨
    (s.control.phase = .endCheck ∧ endCheck s = .next t) ∨
    (atRest s.control.phase = false ∧ bitFree s.control.phase = false ∧ elementStep s = .next t) := by
  unfold step phaseStep at h
  cases hp : s.control.phase <;> simp only [hp] at h
  case idle => cases h; exact .inl ⟨rfl, rfl⟩
  case done => cases h; exact .inl ⟨rfl, rfl⟩
  case fault => cases h; exact .inl ⟨rfl, rfl⟩
  case fixedSetup => exact .inr (.inl ⟨rfl, h⟩)
  case dynBuild => exact .inr (.inr (.inl ⟨rfl, h⟩))
  case endCheck => exact .inr (.inr (.inr (.inl ⟨rfl, h⟩)))
  all_goals exact .inr (.inr (.inr (.inr ⟨rfl, rfl, h⟩)))

/-- Settles O58: by the kinds of steps; only an element of `PH_BLOCK_HDR` writes `BFINAL`. -/
theorem onlyBlockWritesBfinal : Obligations.OnlyBlockWritesBfinal := by
  intro s t h hp ht
  rcases step_cases h with ⟨-, rfl⟩ | ⟨-, h⟩ | ⟨-, h⟩ | ⟨-, h⟩ | ⟨-, -, h⟩
  · rfl
  · exact buildBlockTables_bfinal h ht
  · exact buildBlockTables_bfinal h ht
  · rcases endCheck_next h with ⟨-, rfl⟩ | rfl
    · rfl
    · exact absurd rfl ht
  · exact elementStep_bfinal h hp ht

/-! ### The bit position over a step -/

/-- An effect without a fault keeps the launch parameters and I-BR, and does not move `bitpos` back: extra bits are
the only ones it takes (40 R91). -/
theorem effect_reader {s t : State} {i : Instr} (h : Effect s i t) (hr : ReaderInv s.launch s.reader)
    (ht : t.control.status ≠ .fault) :
    t.launch = s.launch ∧ ReaderInv t.launch t.reader ∧ s.bitpos ≤ t.bitpos := by
  have of_same (hl : t.launch = s.launch) (hrd : t.reader = s.reader) :
      t.launch = s.launch ∧ ReaderInv t.launch t.reader ∧ s.bitpos ≤ t.bitpos := by
    rw [bitpos_eq_readerPos, bitpos_eq_readerPos, hl, hrd]
    exact ⟨rfl, hr, le_rfl⟩
  have of_read {e x : Nat} {r : BitReader} (he : e ≤ 32) (hrd : readBits s.launch e s.reader = .ok (x, r))
      (hl : t.launch = s.launch) (htr : t.reader = r) :
      t.launch = s.launch ∧ ReaderInv t.launch t.reader ∧ s.bitpos ≤ t.bitpos := by
    obtain ⟨hi, hpos⟩ := readBits_readerInv he hr hrd
    rw [bitpos_eq_readerPos, bitpos_eq_readerPos, hl, htr]
    exact ⟨rfl, hi, by omega⟩
  cases h with
  | fault e he => exact absurd rfl ht
  | storedByte b s' hi ha =>
    have hf := outAppend_frame ha
    exact of_same (by rw [countStored_eq, hf]; rfl) (by rw [countStored_eq, hf]; rfl)
  | oneLength v hi =>
    exact of_same (by rw [appendLengths_eq_setPhase]; rfl) (by rw [appendLengths_eq_setPhase]; rfl)
  | repeated v base e x r hi hx he hrd hle =>
    exact of_read he hrd (by rw [appendLengths_eq_setPhase]; rfl) (by rw [appendLengths_eq_setPhase]; rfl)
  | literal b t n hi ha =>
    have hf := outAppend_frame ha
    exact of_same (by rw [hf]; rfl) (by rw [hf]; rfl)
  | length n len e x r hi hn he hrd => exact of_read he hrd rfl rfl
  | distance n distance e x len r t hi hm he hrd hc =>
    have hf := copyMatch_frame hc
    exact of_read he hrd (by rw [hf]; rfl) (by rw [hf]; rfl)
  | _ => exact of_same rfl rfl

/-- An element without a fault keeps I-BR and moves `bitpos` forward. -/
theorem fetchExec_reader {s t : State} (h : fetchExec s = .next t) (hr : ReaderInv s.launch s.reader)
    (ht : t.control.status ≠ .fault) :
    t.launch = s.launch ∧ ReaderInv t.launch t.reader ∧ s.bitpos < t.bitpos := by
  rcases fetchExec_effect h with ⟨e, -, rfl⟩ | ⟨i, r, hf, -, heff⟩
  · exact absurd rfl ht
  · obtain ⟨hri, hlt⟩ := fetch_readerInv hr hf
    obtain ⟨hl, hti, hle⟩ := effect_reader heff hri ht
    exact ⟨hl, hti, hlt.trans_le hle⟩

theorem elementStep_reader {s t : State} (h : elementStep s = .next t) (hr : ReaderInv s.launch s.reader)
    (hst : s.control.status ≠ .fault) (ht : t.control.status ≠ .fault) :
    t.launch = s.launch ∧ ReaderInv t.launch t.reader ∧ s.bitpos < t.bitpos := by
  rcases elementStep_next h with ⟨h, -⟩ | ⟨s', hfirst, hs, hs', hsecond⟩
  · exact fetchExec_reader h hr ht
  · obtain ⟨-, r, heq⟩ := fetchExec_pending hfirst hs hs'
    have hst' : s'.control.status ≠ .fault := by rw [heq]; exact hst
    obtain ⟨hl, hri, hlt⟩ := fetchExec_reader hfirst hr hst'
    obtain ⟨hl', hti, hlt'⟩ := fetchExec_reader hsecond hri ht
    exact ⟨hl'.trans hl, hti, hlt.trans hlt'⟩

theorem buildBlockTables_reader {litlen dist : List Nat} {s t : State} (h : buildBlockTables litlen dist s = .next t)
    (ht : t.control.status ≠ .fault) : t.reader = s.reader := by
  rcases buildBlockTables_next h with rfl | rfl
  · rfl
  · exact absurd rfl ht

/-- A busy engine is in a running phase (10_state R15, R16). -/
theorem atRest_eq_false {c : Control} (hc : Coherent c) (hb : c.status = .busy) : atRest c.phase = false := by
  obtain ⟨hidle, hdone, hfault, -⟩ := hc
  cases hp : c.phase <;> simp_all [atRest]

/-- Settles O56: the fetch of every element takes a bit, and a bit-free step takes none. -/
theorem bitPositionAdvances : Obligations.BitPositionAdvances := by
  rintro s t ⟨-, -, hc, -, hbusy⟩ hb h ht
  obtain ⟨hr, -, -⟩ := hbusy hb
  rcases step_cases h with ⟨hrest, -⟩ | ⟨hp, h⟩ | ⟨hp, h⟩ | ⟨hp, h⟩ | ⟨-, hfree, h⟩
  · simp [atRest_eq_false hc hb] at hrest
  · exact ⟨fun _ => buildBlockTables_reader h ht, fun hf => by simp [hp, bitFree] at hf⟩
  · exact ⟨fun _ => buildBlockTables_reader h ht, fun hf => by simp [hp, bitFree] at hf⟩
  · refine ⟨fun _ => ?_, fun hf => by simp [hp, bitFree] at hf⟩
    rcases endCheck_next h with ⟨-, rfl⟩ | rfl
    · rfl
    · exact absurd rfl ht
  · refine ⟨fun hf => by simp [hfree] at hf, fun _ => ?_⟩
    obtain ⟨hl, hti, hlt⟩ := elementStep_reader h hr (by simp [hb]) ht
    exact ⟨hlt, hl ▸ readerPos_le hti⟩

end Sys2Proof.Machine

/-! ## The tables that BUILD leaves keep I-HT

The counts, `NSYM` and the symbols of `tableOf` (10_state R22, 41 R101, 42 R113). -/

namespace Sys2Proof.Machine

open Sys2Proof

theorem mem_symbolsOfLength {L : List Nat} {l s : Nat} : s ∈ symbolsOfLength L l ↔ L[s]? = some l := by
  simp [symbolsOfLength, List.mem_zipIdx_iff_getElem?]

theorem length_symbolsOfLength (L : List Nat) (l : Nat) : (symbolsOfLength L l).length = L.count l := by
  rw [symbolsOfLength, List.length_map, ← List.countP_eq_length_filter, List.count]
  conv_rhs => rw [← List.zipIdx_map_fst 0 L, List.countP_map]
  rfl

theorem nodup_symbolsOfLength (L : List Nat) (l : Nat) : (symbolsOfLength L l).Nodup := by
  have hsub : (symbolsOfLength L l).Sublist (L.zipIdx.map Prod.snd) := List.filter_sublist.map _
  rw [List.zipIdx_map_snd] at hsub
  exact hsub.nodup List.nodup_range'

theorem mem_sortedSymbols_lt {L : List Nat} {s : Nat} (h : s ∈ sortedSymbols L) : s < L.length := by
  obtain ⟨l, -, hs⟩ := List.mem_flatMap.mp h
  exact (List.getElem?_eq_some_iff.mp (mem_symbolsOfLength.mp hs)).1

/-- A symbol has one length, so it is placed once. -/
theorem nodup_sortedSymbols (L : List Nat) : (sortedSymbols L).Nodup := by
  refine List.nodup_flatMap.mpr ⟨fun l _ => nodup_symbolsOfLength L l, ?_⟩
  refine (List.nodup_range' (s := 1) (n := 15)).imp fun hne s hs hs' => hne ?_
  exact Option.some.inj ((mem_symbolsOfLength.mp hs).symm.trans (mem_symbolsOfLength.mp hs'))

theorem length_sortedSymbols (L : List Nat) :
    (sortedSymbols L).length = ((List.range' 1 15).map fun l => L.count l).sum := by
  simp only [sortedSymbols, List.length_flatMap, length_symbolsOfLength]

theorem length_sortedSymbols_le (L : List Nat) : (sortedSymbols L).length ≤ L.length := by
  have hsub : sortedSymbols L ⊆ List.range L.length := fun s hs => List.mem_range.mpr (mem_sortedSymbols_lt hs)
  simpa using ((nodup_sortedSymbols L).subperm hsub).length_le

theorem lengthCount_tableOf_zero (w : Nat) (L : List Nat) : lengthCount (tableOf w L) 0 = 0 := rfl

/-- The 9 bits of a count hold it (10_state R22). -/
theorem lengthCount_tableOf (w : Nat) {L : List Nat} (hL : L.length < 512) {l : Nat} (h1 : 1 ≤ l) (h15 : l ≤ 15) :
    lengthCount (tableOf w L) l = L.count l := by
  have hcell : lengthCount (tableOf w L) l = (BitVec.ofNat 9 (L.count l)).toNat := by
    interval_cases l <;> rfl
  rw [hcell, BitVec.toNat_ofNat, Nat.mod_eq_of_lt (List.count_le_length.trans_lt hL)]

theorem sum_lengthCount_tableOf (w : Nat) {L : List Nat} (hL : L.length < 512) :
    ((List.range 16).map (lengthCount (tableOf w L))).sum = (sortedSymbols L).length := by
  have hcounts : (List.range' 1 15).map (lengthCount (tableOf w L)) = (List.range' 1 15).map fun l => L.count l :=
    List.map_congr_left fun l hl => by
      rw [List.mem_range'_1] at hl
      exact lengthCount_tableOf w hL hl.1 (by omega)
  rw [show List.range 16 = 0 :: List.range' 1 15 from rfl, List.map_cons, List.sum_cons, lengthCount_tableOf_zero,
    hcounts, length_sortedSymbols, Nat.zero_add]

theorem nsym_tableOf (w : Nat) {L : List Nat} (hL : L.length < 512) :
    (tableOf w L).nsym.toNat = (sortedSymbols L).length := by
  rw [tableOf, BitVec.toNat_ofNat, ← length_sortedSymbols,
    Nat.mod_eq_of_lt ((length_sortedSymbols_le L).trans_lt hL)]

/-- I-HT for every table that BUILD leaves over an alphabet of `n` symbols. -/
theorem tableInv_tableOf {w n : Nat} {L : List Nat} (hn : L.length ≤ n) (hw : n ≤ 2 ^ w) (hL : L.length < 512) :
    TableInv n (tableOf w L) := by
  have hlt : ∀ s ∈ sortedSymbols L, s < 2 ^ w := fun s hs => (mem_sortedSymbols_lt hs).trans_le (hn.trans hw)
  refine ⟨lengthCount_tableOf_zero w L, ?_, ?_, fun sym hsym => ?_, ?_⟩
  · rw [sum_lengthCount_tableOf w hL, nsym_tableOf w hL]
  · rw [nsym_tableOf w hL, tableOf, List.length_map]
  · obtain ⟨s, hs, rfl⟩ := List.mem_map.mp hsym
    rw [BitVec.toNat_ofNat, Nat.mod_eq_of_lt (hlt s hs)]
    exact (mem_sortedSymbols_lt hs).trans_le hn
  · refine (nodup_sortedSymbols L).map_on fun s hs s' hs' heq => ?_
    have := congrArg BitVec.toNat heq
    rwa [BitVec.toNat_ofNat, BitVec.toNat_ofNat, Nat.mod_eq_of_lt (hlt s hs), Nat.mod_eq_of_lt (hlt s' hs')] at this

/-! ### The length arrays of a run -/

theorem length_fixedLitlenLengths : fixedLitlenLengths.length = 288 := by
  simp only [fixedLitlenLengths, List.length_append, List.length_replicate]

theorem tableInv_fixedLitlen : TableInv 288 (tableOf 9 fixedLitlenLengths) :=
  tableInv_tableOf length_fixedLitlenLengths.le (by decide) (by rw [length_fixedLitlenLengths]; decide)

theorem tableInv_fixedDist : TableInv 32 (tableOf 5 fixedDistLengths) :=
  tableInv_tableOf (by simp [fixedDistLengths]) (by decide) (by simp [fixedDistLengths])

/-- `HLIT` has 5 bits, so there are at most 288 literal/length lengths (44 R141, R150). -/
theorem length_litlenLengths_le (d : Dynamic) : (litlenLengths d).length ≤ 288 := by
  have := d.hlit.isLt
  simp only [litlenLengths, List.length_map, List.length_take, nLl]
  omega

theorem length_distLengths_le (d : Dynamic) : (distLengths d).length ≤ 32 := by
  have := d.hdist.isLt
  simp only [distLengths, List.length_map, List.length_take, nD]
  omega

theorem tableInv_litlenLengths (d : Dynamic) : TableInv 288 (tableOf 9 (litlenLengths d)) :=
  have h := length_litlenLengths_le d
  tableInv_tableOf h (by decide) (by omega)

theorem tableInv_distLengths (d : Dynamic) : TableInv 32 (tableOf 5 (distLengths d)) :=
  have h := length_distLengths_le d
  tableInv_tableOf h (by decide) (by omega)

theorem tableInv_clLengths (v : Vector (BitVec 3) 19) :
    TableInv 19 (tableOf 5 (v.toList.map BitVec.toNat)) :=
  tableInv_tableOf (by simp) (by decide) (by simp)

end Sys2Proof.Machine

/-! ## The output registers keep their invariant

OUT_APPEND and the copy of a match under `OutputInv` (10_state R18, R19; 20 R47; 45 R164; 46 R251). -/

namespace Sys2Proof.Machine

open Sys2Proof Sys2Proof.Abstract

/-- The loop of `ADLER32_OF` over one byte more. -/
theorem adlerLoop_concat (c : Nat × Nat) (ds : List Byte) (d : Byte) :
    adlerLoop c (ds ++ [d]) =
      (((adlerLoop c ds).1 + d.toNat) % 65521,
        ((adlerLoop c ds).2 + ((adlerLoop c ds).1 + d.toNat) % 65521) % 65521) := by
  induction ds generalizing c with
  | nil => rfl
  | cons d' ds ih => exact ih _

theorem adlerLoop_lt (c : Nat × Nat) (hc : c.1 < 65521 ∧ c.2 < 65521) (ds : List Byte) :
    (adlerLoop c ds).1 < 65521 ∧ (adlerLoop c ds).2 < 65521 := by
  induction ds generalizing c with
  | nil => exact hc
  | cons d ds ih => exact ih _ ⟨Nat.mod_lt _ (by decide), Nat.mod_lt _ (by decide)⟩

/-- The checksum of a byte string as its two sums. -/
theorem toNat_adler32Of (ds : List Byte) :
    (adler32Of ds).toNat = (adlerLoop (1, 0) ds).2 * 65536 + (adlerLoop (1, 0) ds).1 := by
  obtain ⟨ha, hb⟩ := adlerLoop_lt (1, 0) (by decide) ds
  rw [adler32Of, BitVec.toNat_ofNat, Nat.shiftLeft_eq, Nat.mul_comm,
    ← Nat.two_pow_add_eq_or_of_lt (i := 16) (by omega)]
  omega

/-- The checksum registers as one number (46 R251). -/
theorem toNat_checksum (c : Adler) : (checksum c).toNat = c.b.toNat * 65536 + c.a.toNat := by
  rw [checksum, BitVec.toNat_append, Nat.shiftLeft_eq, Nat.mul_comm, ← Nat.two_pow_add_eq_or_of_lt c.a.isLt]

/-- The registers hold the checksum of a string exactly when they hold its two sums. -/
theorem checksum_eq_adler32Of_iff {c : Adler} {ds : List Byte} :
    checksum c = adler32Of ds ↔
      c.a.toNat = (adlerLoop (1, 0) ds).1 ∧ c.b.toNat = (adlerLoop (1, 0) ds).2 := by
  obtain ⟨ha, hb⟩ := adlerLoop_lt (1, 0) (by decide) ds
  have hca := c.a.isLt
  have hcb := c.b.isLt
  rw [← BitVec.toNat_inj, toNat_checksum, toNat_adler32Of]
  omega

/-- One byte into the checksum is the checksum of one byte more (46 R251). -/
theorem checksum_adlerStep {c : Adler} {ds : List Byte} (d : Byte) (h : checksum c = adler32Of ds) :
    checksum (adlerStep c d) = adler32Of (ds ++ [d]) := by
  obtain ⟨ha, hb⟩ := checksum_eq_adler32Of_iff.mp h
  rw [checksum_eq_adler32Of_iff, adlerLoop_concat, ← ha, ← hb]
  simp only [adlerStep, Config.adlerMod, BitVec.toNat_ofNat]
  omega

/-- OUT_APPEND writes after the last byte written. -/
theorem memWrite_outPos {s : State} (h : s.out.outMem.map Prod.fst = List.range s.out.outPos.toNat) (b : Byte) :
    memWrite s.out.outMem s.out.outPos.toNat b = s.out.outMem ++ [(s.out.outPos.toNat, b)] := by
  refine memWrite_of_all_lt _ _ _ fun c hc => ?_
  have hmem : c.1 ∈ s.out.outMem.map Prod.fst := List.mem_map_of_mem hc
  rwa [h, List.mem_range] at hmem

/-- OUT_APPEND keeps the output's invariant (20 R47). -/
theorem outAppend_outputInv {b : Byte} {s t : State} (h : OutputInv s) (ha : outAppend b s = .ok t) :
    OutputInv t := by
  obtain ⟨-, haddr, hsum⟩ := h
  have hpos := outAppend_outPos ha
  obtain ⟨hroom, rfl⟩ := outAppend_ok ha
  have hmem := memWrite_outPos haddr b
  refine ⟨?_, ?_, ?_⟩
  · rw [hpos]; exact hroom
  · rw [hpos, State.setOut_out, hmem, List.map_append, haddr, List.range_succ]
    rfl
  · rw [outBytes, State.setOut_out, hmem, List.map_append]
    exact checksum_adlerStep b hsum

/-- The copy of a match keeps the output's invariant (45 R164). -/
theorem copyMatch_outputInv {distance k : Nat} {s t : State} (h : OutputInv s)
    (hc : copyMatch distance k s = .ok t) : OutputInv t := by
  induction k generalizing s with
  | zero => simp only [copyMatch] at hc; cases hc; exact h
  | succ k ih =>
    obtain ⟨b, s', -, ha, hc⟩ := copyMatch_succ hc
    exact ih (outAppend_outputInv h ha) hc

end Sys2Proof.Machine

/-! ## Every step keeps the invariant

The invariant without its clause on the pending length (`RunInv`) is kept by each effect, so by each half of a step; the
pending length is gone again at the end of a step (log 6). -/

namespace Sys2Proof.Machine

open Sys2Proof

/-- `Inv` without the clause on the pending length: what also holds between the halves of a match (`inv_iff`). -/
structure RunInv (s : State) : Prop where
  inMem : Memory.wf s.launch.inMem
  outMem : Memory.wf s.out.outMem
  coherent : Coherent s.control
  running : s.control.status = .busy → ReaderInv s.launch s.reader ∧ OutputInv s ∧ PhaseInv s

theorem inv_iff {s : State} : Inv s ↔ RunInv s ∧ s.matchLen = none :=
  ⟨fun ⟨hin, hout, hc, hm, hrun⟩ => ⟨⟨hin, hout, hc, hrun⟩, hm⟩,
    fun ⟨⟨hin, hout, hc, hrun⟩, hm⟩ => ⟨hin, hout, hc, hm, hrun⟩⟩

/-- What holds of a running engine in whatever phase it is. -/
structure Live (s : State) : Prop where
  inMem : Memory.wf s.launch.inMem
  outMem : Memory.wf s.out.outMem
  running : atRest s.control.phase = false
  busy : s.control.status = .busy
  noErr : s.control.err = .none
  reader : ReaderInv s.launch s.reader
  output : OutputInv s

theorem coherent_of_running {c : Control} (hp : atRest c.phase = false) (hb : c.status = .busy) (he : c.err = .none) :
    Coherent c := by
  simp only [atRest, Bool.or_eq_false_iff, beq_eq_false_iff_ne] at hp
  obtain ⟨⟨hidle, hdone⟩, hfault⟩ := hp
  simp [Coherent, hb, he, hidle, hdone, hfault]

theorem runInv_of_live {s : State} (h : Live s) (hp : PhaseInv s) : RunInv s :=
  ⟨h.inMem, h.outMem, coherent_of_running h.running h.busy h.noErr, fun _ => ⟨h.reader, h.output, hp⟩⟩

theorem live_of_runInv {s : State} (h : RunInv s) (hp : atRest s.control.phase = false) : Live s ∧ PhaseInv s := by
  obtain ⟨hin, hout, hc, hrun⟩ := h
  have hb : s.control.status = .busy := by
    obtain ⟨hidle, hdone, hfault, -⟩ := hc
    cases hs : s.control.status <;> simp_all [atRest]
  have he : s.control.err = .none := hc.2.2.2.mpr (by simp [hb])
  obtain ⟨hr, ho, hphase⟩ := hrun hb
  exact ⟨⟨hin, hout, hp, hb, he, hr, ho⟩, hphase⟩

/-- After a fault with a code only the memories' form and the control registers are claimed (10_state R28). -/
theorem runInv_takeFault {e : ErrCode} {s : State} (hin : Memory.wf s.launch.inMem) (he : e ≠ .none) :
    RunInv (takeFault e s) :=
  ⟨hin, wf_takeFault e s, by simp [Coherent, he], fun hb => by cases hb⟩

/-! ### The updates of a running engine -/

theorem live_setPhase {s : State} (h : Live s) {p : Phase} (hp : atRest p = false) : Live (s.setPhase p) :=
  ⟨h.inMem, h.outMem, hp, h.busy, h.noErr, h.reader, h.output⟩

theorem live_setBlock {s : State} (h : Live s) (b : Block) : Live (s.setBlock b) :=
  ⟨h.inMem, h.outMem, h.running, h.busy, h.noErr, h.reader, h.output⟩

theorem live_setDyn {s : State} (h : Live s) (d : Dynamic) : Live (s.setDyn d) :=
  ⟨h.inMem, h.outMem, h.running, h.busy, h.noErr, h.reader, h.output⟩

theorem live_setTables {s : State} (h : Live s) (ts : Tables) : Live (s.setTables ts) :=
  ⟨h.inMem, h.outMem, h.running, h.busy, h.noErr, h.reader, h.output⟩

theorem live_setMatchLen {s : State} (h : Live s) (n : Option (BitVec 9)) : Live (s.setMatchLen n) :=
  ⟨h.inMem, h.outMem, h.running, h.busy, h.noErr, h.reader, h.output⟩

theorem live_setReader {s : State} (h : Live s) {r : BitReader} (hr : ReaderInv s.launch r) : Live (s.setReader r) :=
  ⟨h.inMem, h.outMem, h.running, h.busy, h.noErr, hr, h.output⟩

theorem live_outAppend {b : Byte} {s t : State} (h : Live s) (ha : outAppend b s = .ok t) : Live t := by
  have hout := outAppend_outputInv h.output ha
  have hwf := wf_outAppend ha h.outMem
  have hf := outAppend_frame ha
  generalize t.out = o, t.adler = a at hf hwf
  subst hf
  exact ⟨h.inMem, hwf, h.running, h.busy, h.noErr, h.reader, hout⟩

theorem live_copyMatch {distance k : Nat} {s t : State} (h : Live s) (hc : copyMatch distance k s = .ok t) :
    Live t := by
  have hout := copyMatch_outputInv h.output hc
  have hwf := wf_copyMatch hc h.outMem
  have hf := copyMatch_frame hc
  generalize t.out = o, t.adler = a at hf hwf
  subst hf
  exact ⟨h.inMem, hwf, h.running, h.busy, h.noErr, h.reader, hout⟩

theorem atRest_phaseAfterBlock (b : Block) : atRest (phaseAfterBlock b) = false := by
  unfold phaseAfterBlock
  split <;> rfl

/-! ### The clauses of the phases -/

theorem phaseInv_storedHdr {s : State} (h : s.control.phase = .storedHdr) :
    PhaseInv s ↔ s.block.btype = 0#2 := by
  simp only [PhaseInv, h]

theorem phaseInv_storedCopy {s : State} (h : s.control.phase = .storedCopy) :
    PhaseInv s ↔ s.block.btype = 0#2 ∧ s.reader.bitCount = 0#6 ∧ s.block.copyRem ≠ 0#16 ∧
      s.block.copyRem.toNat ≤ s.block.len.toNat := by
  simp only [PhaseInv, h]

theorem phaseInv_fixedSetup {s : State} (h : s.control.phase = .fixedSetup) :
    PhaseInv s ↔ s.block.btype = 1#2 := by
  simp only [PhaseInv, h]

theorem phaseInv_dynHdr {s : State} (h : s.control.phase = .dynHdr) :
    PhaseInv s ↔ s.block.btype = 2#2 := by
  simp only [PhaseInv, h]

theorem phaseInv_dynClen {s : State} (h : s.control.phase = .dynClen) :
    PhaseInv s ↔ s.block.btype = 2#2 ∧ s.dyn.clIdx.toNat < nCode s.dyn ∧
      ∀ j < 19, s.dyn.clIdx.toNat ≤ j → s.dyn.clLengths.getD (clOrder.getD j 0) 0#3 = 0#3 := by
  simp only [PhaseInv, h]

theorem phaseInv_dynLengths {s : State} (h : s.control.phase = .dynLengths) :
    PhaseInv s ↔ s.block.btype = 2#2 ∧ s.dyn.lenIdx.toNat < nLl s.dyn + nD s.dyn ∧ TableInv 19 s.tables.tCl := by
  simp only [PhaseInv, h]

theorem phaseInv_dynBuild {s : State} (h : s.control.phase = .dynBuild) :
    PhaseInv s ↔ s.block.btype = 2#2 ∧ s.dyn.lenIdx.toNat = nLl s.dyn + nD s.dyn := by
  simp only [PhaseInv, h]

theorem phaseInv_symbol {s : State} (h : s.control.phase = .symbol) :
    PhaseInv s ↔ TableInv 288 s.tables.tLl ∧ TableInv 32 s.tables.tD ∧
      (s.block.btype = 2#2 ∨
        (s.block.btype = 1#2 ∧ s.tables.tLl = tableOf 9 fixedLitlenLengths ∧
          s.tables.tD = tableOf 5 fixedDistLengths)) := by
  simp only [PhaseInv, h]

theorem phaseInv_endCheck {s : State} (h : s.control.phase = .endCheck) :
    PhaseInv s ↔ s.block.bfinal = 1#1 := by
  simp only [PhaseInv, h]

/-- In `PH_SYMBOL` the clause is about the block and the tables only. -/
theorem phaseInv_symbol_congr {s t : State} (h : PhaseInv s) (hs : s.control.phase = .symbol)
    (hc : t.control = s.control) (hb : t.block = s.block) (ht : t.tables = s.tables) : PhaseInv t := by
  rw [phaseInv_symbol hs] at h
  rwa [phaseInv_symbol (by rw [hc, hs]), hb, ht]

/-- The end of a block goes to the size check with `BFINAL` set only (43 R123). -/
theorem phaseInv_afterBlock (s : State) : PhaseInv (s.setPhase (phaseAfterBlock s.block)) := by
  unfold phaseAfterBlock
  split
  · rename_i hb
    exact (phaseInv_endCheck rfl).mpr hb
  · trivial

/-- A fetch moves the bit reader only, and the clauses of the phases but two are not about it. -/
theorem phaseInv_setReader {s : State} {r : BitReader} (h : PhaseInv s) (hz : s.control.phase ≠ .zhdr)
    (hc : s.control.phase = .storedCopy → r.bitCount = 0#6) : PhaseInv (s.setReader r) := by
  cases hp : s.control.phase
  case storedCopy =>
    obtain ⟨hb, -, hrem⟩ := (phaseInv_storedCopy hp).mp h
    exact (phaseInv_storedCopy (by exact hp)).mpr ⟨hb, hc hp, hrem⟩
  case zhdr => exact absurd hp hz
  case idle | blockHdr | done | fault => simp [PhaseInv, hp]
  all_goals
    simp only [PhaseInv, State.setReader_control, hp] at h ⊢
    exact h

/-! ### The code lengths -/

/-- The lengths of the two codes are at most 320 (10_state R21). -/
theorem nLl_add_nD_le (d : Dynamic) : nLl d + nD d ≤ 320 := by
  have := d.hlit.isLt
  have := d.hdist.isLt
  simp only [nLl, nD]
  omega

theorem nCode_le (d : Dynamic) : nCode d ≤ 19 := by
  have := d.hclen.isLt
  simp only [nCode]
  omega

/-- A run that ends at or below `N_LL + N_D` keeps the phase's clause, or leads to the building of the tables. -/
theorem phaseInv_appendLengths {s : State} (v : BitVec 4) {rep : Nat} (hs : s.control.phase = .dynLengths)
    (h : PhaseInv s) (hle : s.dyn.lenIdx.toNat + rep ≤ nLl s.dyn + nD s.dyn) : PhaseInv (appendLengths v rep s) := by
  obtain ⟨hb, -, hT⟩ := (phaseInv_dynLengths hs).mp h
  have hidx : (s.dyn.lenIdx + BitVec.ofNat 9 rep).toNat = s.dyn.lenIdx.toNat + rep := by
    have := nLl_add_nD_le s.dyn
    rw [BitVec.toNat_add, BitVec.toNat_ofNat]
    omega
  rw [appendLengths_eq_setPhase]
  split
  · rename_i heq
    exact (phaseInv_dynBuild rfl).mpr ⟨hb, heq⟩
  · rename_i hne
    have hlt : (s.dyn.lenIdx + BitVec.ofNat 9 rep).toNat < nLl s.dyn + nD s.dyn := by omega
    exact (phaseInv_dynLengths (by exact hs)).mpr ⟨hb, hlt, hT⟩

theorem live_appendLengths {s : State} (h : Live s) (v : BitVec 4) (rep : Nat) : Live (appendLengths v rep s) := by
  rw [appendLengths_eq_setPhase]
  refine live_setPhase (live_setDyn h _) ?_
  split
  · rfl
  · exact h.running

/-- The dynamic header clears every code length (44 R140). -/
theorem getD_replicate_zero (j : Nat) : (Vector.replicate 19 0#3).getD j 0#3 = 0#3 := by
  by_cases hj : j < 19 <;> simp [Vector.getD, hj]

/-- A field written leaves the other code lengths. -/
theorem clLengths_getD_of_ne {ls : Vector (BitVec 3) 19} {i j : Nat} (v : BitVec 3) (h : i ≠ j) :
    (ls.setIfInBounds i v).getD j 0#3 = ls.getD j 0#3 := by
  by_cases hj : j < 19 <;> simp [Vector.getD, hj, h]

/-- Each place of `CL_ORDER` names its own symbol (30 R65). -/
theorem clOrder_getD_ne {i j sym : Nat} (hi : clOrder[i]? = some sym) (hj : j < 19) (hij : i ≠ j) :
    clOrder.getD j 0 ≠ sym := by
  have hnodup : clOrder.Nodup := by decide
  obtain ⟨hlt, rfl⟩ := List.getElem?_eq_some_iff.mp hi
  rw [List.getD_eq_getElem _ _ hj]
  exact fun heq => hij ((hnodup.getElem_inj_iff.mp heq).symm)

/-- A field that is not the last keeps the phase's clause: only the place just passed is written (44 R142). -/
theorem phaseInv_clen {s : State} (v : BitVec 3) {sym : Nat} (hs : s.control.phase = .dynClen) (h : PhaseInv s)
    (hsym : clOrder[s.dyn.clIdx.toNat]? = some sym) (hn : (s.dyn.clIdx + 1#5).toNat ≠ nCode s.dyn) :
    PhaseInv (s.setDyn (clenPlaced v sym s.dyn)) := by
  obtain ⟨hb, hlt, hzero⟩ := (phaseInv_dynClen hs).mp h
  have hidx : (s.dyn.clIdx + 1#5).toNat = s.dyn.clIdx.toNat + 1 := by
    have := nCode_le s.dyn
    rw [BitVec.toNat_add, BitVec.toNat_ofNat]
    omega
  have hlt' : (s.dyn.clIdx + 1#5).toNat < nCode s.dyn := by omega
  refine (phaseInv_dynClen (by exact hs)).mpr ⟨hb, hlt', fun j hj hle => ?_⟩
  have hle' : (s.dyn.clIdx + 1#5).toNat ≤ j := hle
  have hne := clOrder_getD_ne hsym hj (by omega)
  have hold := hzero j hj (by omega)
  exact (clLengths_getD_of_ne v hne.symm).trans hold

/-! ### Stored blocks -/

/-- A stored byte counted: one less to copy, or the end of the block (43 R127). -/
theorem phaseInv_countStored {s : State} (hs : s.control.phase = .storedCopy) (h : PhaseInv s) :
    PhaseInv (countStored s) := by
  obtain ⟨hb, hc, hrem, hle⟩ := (phaseInv_storedCopy hs).mp h
  rw [countStored_eq]
  split
  · exact phaseInv_afterBlock (s.setBlock _)
  · rename_i hne
    have hcount : (s.block.copyRem - 1#16).toNat ≤ s.block.len.toNat := by
      have hpos : s.block.copyRem.toNat ≠ 0 := fun h0 => hrem (BitVec.eq_of_toNat_eq h0)
      have := s.block.copyRem.isLt
      rw [BitVec.toNat_sub, BitVec.toNat_ofNat]
      omega
    exact (phaseInv_storedCopy (by exact hs)).mpr ⟨hb, hc, hne, hcount⟩

theorem live_countStored {s : State} (h : Live s) : Live (countStored s) := by
  rw [countStored_eq]
  refine live_setPhase (live_setBlock h _) ?_
  split
  · exact atRest_phaseAfterBlock _
  · exact h.running

/-! ### The effects -/

/-- Each effect keeps the invariant of the run. The clause of `PH_ZHDR` is about the bits before the header and is not
needed for its effect. -/
theorem effect_runInv {s t : State} {i : Instr} (h : Effect s i t) (hl : Live s) (ha : admits s.ctx i = true)
    (hp : s.control.phase ≠ .zhdr → PhaseInv s) (hc : s.control.phase = .storedHdr → s.reader.bitCount = 0#6) :
    RunInv t := by
  have of_word {p : Phase} (hi : wordPhase i = some p) (hz : p ≠ .zhdr) : s.control.phase = p ∧ PhaseInv s := by
    have hphase : s.control.phase = p := phase_of_wordPhase ha hi
    exact ⟨hphase, hp (hphase ▸ hz)⟩
  have of_cl (hi : isClSymbol i = true) : s.control.phase = .dynLengths ∧ PhaseInv s := by
    have hphase : s.control.phase = .dynLengths := phase_of_isClSymbol ha hi
    exact ⟨hphase, hp (by simp [hphase])⟩
  have of_symbol (hphase : s.control.phase = .symbol) : PhaseInv s := hp (by simp [hphase])
  cases h with
  | fault e he => exact runInv_takeFault hl.inMem he
  | zhdr hi => exact runInv_of_live (live_setPhase hl rfl) trivial
  | block bfinal btype p hi hmem =>
    have hlatch := live_setBlock hl { s.block with bfinal := bfinal, btype := btype }
    simp only [List.mem_cons, Prod.mk.injEq, List.not_mem_nil, or_false] at hmem
    rcases hmem with ⟨rfl, rfl⟩ | ⟨rfl, rfl⟩ | ⟨rfl, rfl⟩
    · exact runInv_of_live (live_setPhase hlatch rfl) ((phaseInv_storedHdr rfl).mpr rfl)
    · exact runInv_of_live (live_setPhase hlatch rfl) ((phaseInv_fixedSetup rfl).mpr rfl)
    · exact runInv_of_live (live_setPhase hlatch rfl) ((phaseInv_dynHdr rfl).mpr rfl)
  | storedHdr len nlen hi =>
    obtain ⟨hphase, hps⟩ := of_word hi (by simp)
    have hlatch := live_setBlock hl { s.block with len := len, nlen := nlen, copyRem := len }
    split
    · exact runInv_of_live (live_setPhase hlatch (atRest_phaseAfterBlock _)) (phaseInv_afterBlock (s.setBlock _))
    · rename_i hlen
      exact runInv_of_live (live_setPhase hlatch rfl)
        ((phaseInv_storedCopy rfl).mpr ⟨(phaseInv_storedHdr hphase).mp hps, hc hphase, hlen, le_rfl⟩)
  | storedByte b s' hi happ =>
    obtain ⟨hphase, hps⟩ := of_word hi (by simp)
    have hl' := live_outAppend hl happ
    have hf := outAppend_frame happ
    have hphase' : s'.control.phase = .storedCopy := by rw [hf]; exact hphase
    have hps' : PhaseInv s' := by
      rw [phaseInv_storedCopy hphase', hf]
      exact (phaseInv_storedCopy hphase).mp hps
    exact runInv_of_live (live_countStored hl') (phaseInv_countStored hphase' hps')
  | dynHdr hlit hdist hclen hi =>
    obtain ⟨hphase, hps⟩ := of_word hi (by simp)
    exact runInv_of_live (live_setPhase (live_setDyn hl _) rfl) ((phaseInv_dynClen rfl).mpr
      ⟨(phaseInv_dynHdr hphase).mp hps, by simp [nCode], fun j _ _ => getD_replicate_zero _⟩)
  | clen v sym hi hs hn =>
    obtain ⟨hphase, hps⟩ := of_word hi (by simp)
    exact runInv_of_live (live_setDyn hl _) (phaseInv_clen v hphase hps hs hn)
  | clenLast v sym hi =>
    obtain ⟨hphase, hps⟩ := of_word hi (by simp)
    obtain ⟨hb, -⟩ := (phaseInv_dynClen hphase).mp hps
    exact runInv_of_live (live_setPhase (live_setTables (live_setDyn hl _) _) rfl) ((phaseInv_dynLengths rfl).mpr
      ⟨hb, by simp [nLl], tableInv_clLengths _⟩)
  | oneLength v hi =>
    obtain ⟨hphase, hps⟩ := of_cl hi
    obtain ⟨-, hlt, -⟩ := (phaseInv_dynLengths hphase).mp hps
    exact runInv_of_live (live_appendLengths hl v 1) (phaseInv_appendLengths v hphase hps hlt)
  | repeated v base e x r hi hx he hr hle =>
    obtain ⟨hphase, hps⟩ := of_cl hi
    have hps' : PhaseInv (s.setReader r) :=
      phaseInv_setReader hps (by simp [hphase]) (fun h => by simp [hphase] at h)
    exact runInv_of_live (live_appendLengths (live_setReader hl (readBits_readerInv he hl.reader hr).1) v _)
      (phaseInv_appendLengths v hphase hps' hle)
  | literal b t n hi happ =>
    obtain ⟨hphase, -⟩ := phase_of_litlenNumber ha hi
    have hf := outAppend_frame happ
    exact runInv_of_live (live_outAppend hl happ)
      (phaseInv_symbol_congr (of_symbol hphase) hphase (by rw [hf]; rfl) (by rw [hf]; rfl) (by rw [hf]; rfl))
  | endOfBlock n hi =>
    exact runInv_of_live (live_setPhase hl (atRest_phaseAfterBlock _)) (phaseInv_afterBlock s)
  | length n len e x r hi hn he hr =>
    obtain ⟨hphase, -⟩ := phase_of_litlenNumber ha hi
    exact runInv_of_live (live_setMatchLen (live_setReader hl (readBits_readerInv he hl.reader hr).1) _)
      (phaseInv_symbol_congr (of_symbol hphase) hphase rfl rfl rfl)
  | distance n distance e x len r t hi hm he hr hcopy =>
    obtain ⟨hphase, -⟩ := phase_of_distNumber ha hi
    have hf := copyMatch_frame hcopy
    exact runInv_of_live
      (live_copyMatch (live_setMatchLen (live_setReader hl (readBits_readerInv he hl.reader hr).1) _) hcopy)
      (phaseInv_symbol_congr (of_symbol hphase) hphase (by rw [hf]; rfl) (by rw [hf]; rfl) (by rw [hf]; rfl))
  | trailer hi =>
    exact ⟨hl.inMem, hl.outMem, by simp [Coherent, hl.noErr], fun hb => by cases hb⟩

/-- Half a step or a whole one keeps the invariant of the run. -/
theorem fetchExec_runInv {s t : State} (h : fetchExec s = .next t) (hl : Live s) (hp : PhaseInv s) : RunInv t := by
  rcases fetchExec_effect h with ⟨e, he, rfl⟩ | ⟨i, r, hf, ha, heff⟩
  · exact runInv_takeFault hl.inMem he
  · obtain ⟨hr, -⟩ := fetch_readerInv hl.reader hf
    refine effect_runInv heff (live_setReader hl hr) ha (fun hz => ?_) (fun hs => ?_)
    · refine phaseInv_setReader hp hz fun hs => ?_
      obtain ⟨-, hc, -⟩ := (phaseInv_storedCopy hs).mp hp
      exact fetch_stored_bitCount hl.reader (.inr ⟨hs, hc⟩) hf
    · exact fetch_stored_bitCount hl.reader (.inl hs) hf

/-! ### The pending length over a step -/

/-- In `PH_SYMBOL`, with a length pending, only a distance symbol is fetched; it uses the length up (45 R163). -/
theorem fetchExec_uses_pending {s t : State} (h : fetchExec s = .next t) (hs : s.control.phase = .symbol)
    (hm : s.matchLen.isSome = true) : t.matchLen = none := by
  rcases fetchExec_effect h with ⟨e, -, rfl⟩ | ⟨i, r, -, ha, heff⟩
  · rfl
  · have of_word {p : Phase} (hi : wordPhase i = some p) : p = .symbol := (phase_of_wordPhase ha hi).symm.trans hs
    have not_cl : isClSymbol i ≠ true := fun hi => by
      have hphase : s.control.phase = .dynLengths := phase_of_isClSymbol ha hi
      simp [hs] at hphase
    have not_litlen {n : Nat} : litlenNumber i ≠ some n := fun hi => by
      have hpend : s.matchLen.isSome = false := (phase_of_litlenNumber ha hi).2
      simp [hm] at hpend
    cases heff with
    | fault e he => rfl
    | distance n distance e x len r t hi hm he hr hc => rw [copyMatch_frame hc]; rfl
    | oneLength v hi => exact absurd hi not_cl
    | repeated v base e x r hi hx he hr hle => exact absurd hi not_cl
    | literal b t n hi ha => exact absurd hi not_litlen
    | endOfBlock n hi => exact absurd hi not_litlen
    | length n len e x r hi hn he hr => exact absurd hi not_litlen
    | _ => cases of_word ‹wordPhase i = some _›

/-! ### The steps -/

/-- One stream element, a whole match included. -/
theorem elementStep_inv {s t : State} (h : elementStep s = .next t) (hl : Live s) (hp : PhaseInv s)
    (hm : s.matchLen = none) : Inv t := by
  rcases elementStep_next h with ⟨hone, hnone⟩ | ⟨s', hfirst, -, hpend, hsecond⟩
  · exact inv_iff.mpr ⟨fetchExec_runInv hone hl hp, hnone hm⟩
  · obtain ⟨hphase, r, heq⟩ := fetchExec_pending hfirst hm hpend
    have hphase' : s'.control.phase = .symbol := by rw [heq]; exact hphase
    obtain ⟨hl', hp'⟩ := live_of_runInv (fetchExec_runInv hfirst hl hp) (by rw [hphase']; rfl)
    exact inv_iff.mpr ⟨fetchExec_runInv hsecond hl' hp', fetchExec_uses_pending hsecond hphase' hpend⟩

/-- The building of a block's tables, over lengths whose tables have I-HT (44 R135, R150, R151). -/
theorem buildBlockTables_inv {litlen dist : List Nat} {s t : State} (h : buildBlockTables litlen dist s = .next t)
    (hl : Live s) (hm : s.matchLen = none) (hT : TableInv 288 (tableOf 9 litlen)) (hD : TableInv 32 (tableOf 5 dist))
    (hb : s.block.btype = 2#2 ∨
      (s.block.btype = 1#2 ∧ tableOf 9 litlen = tableOf 9 fixedLitlenLengths ∧
        tableOf 5 dist = tableOf 5 fixedDistLengths)) : Inv t := by
  rcases buildBlockTables_next h with rfl | rfl
  · exact inv_iff.mpr ⟨runInv_of_live (live_setPhase (live_setTables hl _) rfl)
      ((phaseInv_symbol rfl).mpr ⟨hT, hD, hb⟩), hm⟩
  · exact inv_iff.mpr ⟨runInv_takeFault hl.inMem (by simp), rfl⟩

theorem fixedSetup_inv {s t : State} (h : fixedSetup s = .next t) (hs : s.control.phase = .fixedSetup) (hl : Live s)
    (hp : PhaseInv s) (hm : s.matchLen = none) : Inv t :=
  buildBlockTables_inv h hl hm tableInv_fixedLitlen tableInv_fixedDist
    (.inr ⟨(phaseInv_fixedSetup hs).mp hp, rfl, rfl⟩)

theorem dynBuild_inv {s t : State} (h : dynBuild s = .next t) (hs : s.control.phase = .dynBuild) (hl : Live s)
    (hp : PhaseInv s) (hm : s.matchLen = none) : Inv t :=
  buildBlockTables_inv h hl hm (tableInv_litlenLengths s.dyn) (tableInv_distLengths s.dyn)
    (.inl ((phaseInv_dynBuild hs).mp hp).1)

/-- The size check (46 R247). -/
theorem endCheck_inv {s t : State} (h : endCheck s = .next t) (hs : s.control.phase = .endCheck) (hl : Live s)
    (hp : PhaseInv s) (hm : s.matchLen = none) : Inv t := by
  rcases endCheck_next h with ⟨hpos, rfl⟩ | rfl
  · exact inv_iff.mpr ⟨runInv_of_live (live_setPhase hl rfl) ⟨(phaseInv_endCheck hs).mp hp, hpos⟩, hm⟩
  · exact inv_iff.mpr ⟨runInv_takeFault hl.inMem (by simp), rfl⟩

/-- Settles O53: at rest nothing changes; in a running phase each kind of step keeps the invariant. -/
theorem everyStepKeepsTheInvariant : Obligations.EveryStepKeepsTheInvariant := by
  intro s t hinv h
  obtain ⟨hrun, hm⟩ := inv_iff.mp hinv
  rcases step_cases h with ⟨-, rfl⟩ | ⟨hs, h⟩ | ⟨hs, h⟩ | ⟨hs, h⟩ | ⟨hrest, -, h⟩
  · exact hinv
  · obtain ⟨hl, hp⟩ := live_of_runInv hrun (by rw [hs]; rfl)
    exact fixedSetup_inv h hs hl hp hm
  · obtain ⟨hl, hp⟩ := live_of_runInv hrun (by rw [hs]; rfl)
    exact dynBuild_inv h hs hl hp hm
  · obtain ⟨hl, hp⟩ := live_of_runInv hrun (by rw [hs]; rfl)
    exact endCheck_inv h hs hl hp hm
  · obtain ⟨hl, hp⟩ := live_of_runInv hrun hrest
    exact elementStep_inv h hl hp hm

end Sys2Proof.Machine

/-! ## Who writes the output

OUT_APPEND as the spec states it (20 R47), which instructions use it, and what the others leave (20 R47; 45 R164). -/

namespace Sys2Proof.Machine

open Sys2Proof

/-! ### OUT_APPEND -/

theorem not_room_one_iff {s : State} : ¬ Room 1 s ↔ s.launch.expectedLen.toNat ≤ s.out.outPos.toNat := by
  unfold Room
  omega

theorem outAppend_of_not_room {b : Byte} {s : State} (h : ¬ Room 1 s) :
    outAppend b s = .error (.raise .sizeMismatch) := if_pos (not_room_one_iff.mp h)

theorem outAppend_of_room (b : Byte) {s : State} (h : Room 1 s) : ∃ t, outAppend b s = .ok t :=
  ⟨_, if_neg fun hfull => not_room_one_iff.mpr hfull h⟩

theorem adlerStep_a_toNat (c : Adler) (b : Byte) :
    (adlerStep c b).a.toNat = (c.a.toNat + b.toNat) % 65521 := by
  simp only [adlerStep, Config.adlerMod, BitVec.toNat_ofNat]
  omega

/-- `ADLER_B` takes the new `ADLER_A` (46 R251). -/
theorem adlerStep_b_toNat (c : Adler) (b : Byte) :
    (adlerStep c b).b.toNat = (c.b.toNat + (adlerStep c b).a.toNat) % 65521 := by
  rw [adlerStep_a_toNat]
  simp only [adlerStep, Config.adlerMod, BitVec.toNat_ofNat]
  omega

/-- OUT_APPEND, where it answers, has the effect of 20 R47. -/
theorem outAppend_appended {b : Byte} {s t : State} (h : outAppend b s = .ok t) : Appended b s t := by
  have hpos := outAppend_outPos h
  obtain ⟨-, rfl⟩ := outAppend_ok h
  exact ⟨memRead_memWrite_same _ _ _, fun a ha => memRead_memWrite_other _ _ _ _ (by omega), hpos,
    adlerStep_a_toNat _ _, adlerStep_b_toNat _ _, rfl⟩

/-- Settles O45: by the room for one byte. -/
theorem outAppendWritesOneByte : Obligations.OutAppendWritesOneByte := by
  intro b s
  refine ⟨outAppend_of_not_room, fun hroom => ?_⟩
  obtain ⟨t, ht⟩ := outAppend_of_room b hroom
  exact ⟨t, ht, outAppend_appended ht⟩

/-! ### Appending instructions by their kind -/

theorem appends_of_wordPhase {i : Instr} {p : Phase} (h : wordPhase i = some p) :
    appends i = (p == .storedCopy) := by
  revert h
  unfold wordPhase appends
  cases shape i <;> rintro ⟨⟩
  rfl

theorem appends_of_isClSymbol {i : Instr} (h : isClSymbol i = true) : appends i = false := by
  revert h
  unfold isClSymbol appends
  cases shape i <;> rintro ⟨⟩
  rfl

theorem appends_of_litlenNumber {i : Instr} {n : Nat} (h : litlenNumber i = some n) :
    appends i = decide (n < 256) := by
  revert h
  unfold litlenNumber appends
  cases shape i <;> rintro ⟨⟩ <;> rfl

theorem appends_of_distNumber {i : Instr} {n : Nat} (h : distNumber i = some n) :
    appends i = decide (n < 30) := by
  revert h
  unfold distNumber appends
  cases shape i <;> rintro ⟨⟩ <;> rfl

theorem appendCount_of_wordPhase {i : Instr} {p : Phase} (h : wordPhase i = some p) (s : State) :
    appendCount i s = 1 := by
  revert h
  unfold wordPhase appendCount
  cases shape i <;> rintro ⟨⟩
  rfl

theorem appendCount_of_litlenNumber {i : Instr} {n : Nat} (h : litlenNumber i = some n) (s : State) :
    appendCount i s = 1 := by
  revert h
  unfold litlenNumber appendCount
  cases shape i <;> rintro ⟨⟩ <;> rfl

/-- A distance symbol appends the pending length (log 6). -/
theorem appendCount_of_distNumber {i : Instr} {n : Nat} {s : State} {len : BitVec 9} (h : distNumber i = some n)
    (hm : s.matchLen = some len) : appendCount i s = len.toNat := by
  revert h
  unfold distNumber appendCount
  cases shape i <;> rintro ⟨⟩ <;> simp [hm]

/-! ### What the other instructions leave -/

theorem outputSame_of_eq {s t : State} (ho : t.out = s.out) (ha : t.adler = s.adler) : OutputSame s t :=
  ⟨fun _ => by rw [ho], by rw [ho], ha⟩

theorem outputSame_appendLengths (v : BitVec 4) (rep : Nat) (s : State) : OutputSame s (appendLengths v rep s) := by
  rw [appendLengths_eq_setPhase]
  exact outputSame_of_eq rfl rfl

/-- From 256 on a literal/length symbol ends the block, makes a length pending or faults (45 R162, R163, R165). -/
theorem runLitlen_outputSame {n : Nat} {s t : State} (hn : 256 ≤ n) (h : runLitlen n s = .next t) :
    Faulted s t ∨ OutputSame s t := by
  by_cases heob : n = 256
  · subst heob
    cases h
    exact .inr (outputSame_of_eq rfl rfl)
  · by_cases hlen : n < 286
    · obtain ⟨k, rfl⟩ := Nat.exists_eq_add_of_le (show 257 ≤ n by omega)
      rw [runLitlen_length (by omega)] at h
      rcases lengthSymbol_next h with ⟨x, r, -, rfl⟩ | hfault
      · exact .inr (outputSame_of_eq rfl rfl)
      · exact .inl hfault
    · by_cases hres : n < 288
      · rw [runLitlen_reserved (by omega)] at h
        cases h
        exact .inl ⟨_, rfl⟩
      · rw [runLitlen_outside (by omega)] at h
        cases h

/-- From 30 on a distance symbol only faults (45 R166). -/
theorem runDist_faulted {n : Nat} {s t : State} (hn : 30 ≤ n) (h : runDist n s = .next t) : Faulted s t := by
  by_cases hres : n < 32
  · rw [runDist_reserved (by omega)] at h
    cases h
    exact ⟨_, rfl⟩
  · rw [runDist_outside (by omega)] at h
    cases h

/-- Settles O49: of the effects, only a stored byte's, a literal's and a match's write the output. An instruction with
one of these either appends, or its number is above the literals' or the distances', and then it does something else. -/
theorem othersLeaveTheOutput : Obligations.OthersLeaveTheOutput := by
  intro i s t happ h
  cases exec_effect h with
  | fault e he => exact .inl ⟨e, rfl⟩
  | storedByte b s' hi ha => simp [appends_of_wordPhase hi] at happ
  | literal b t n hi ha =>
    have hn : 256 ≤ n := by simpa [appends_of_litlenNumber hi] using happ
    exact runLitlen_outputSame hn (exec_eq_runLitlen hi s ▸ h)
  | distance n distance e x len r t hi hm he hr hc =>
    have hn : 30 ≤ n := by simpa [appends_of_distNumber hi] using happ
    exact .inl (runDist_faulted hn (exec_eq_runDist hi s ▸ h))
  | oneLength v hi => exact .inr (outputSame_appendLengths v 1 s)
  | repeated v base e x r hi hx he hr hle => exact .inr (outputSame_appendLengths v _ (s.setReader r))
  | _ => exact .inr (outputSame_of_eq rfl rfl)

/-! ### What the appending instructions write -/

/-- `k` bytes may have been written from `OUT_POS` on and no other, and `OUT_POS` counts them. -/
def WritesFromOutPos (k : Nat) (s t : State) : Prop :=
  MemSameOutside s.out.outPos.toNat k s t ∧ t.out.outPos.toNat = s.out.outPos.toNat + k

theorem outAppend_writesFromOutPos {b : Byte} {s t : State} (h : outAppend b s = .ok t) :
    WritesFromOutPos 1 s t := by
  obtain ⟨-, hmem, hpos, -⟩ := outAppend_appended h
  exact ⟨hmem, hpos⟩

theorem copyMatch_writesFromOutPos {distance k : Nat} {s t : State} (h : copyMatch distance k s = .ok t) :
    WritesFromOutPos k s t :=
  ⟨copyMatch_memRead_other h, copyMatch_outPos h⟩

/-- Counting a stored byte leaves the output (43 R127). -/
theorem countStored_writesFromOutPos {k : Nat} {s t : State} (h : WritesFromOutPos k s t) :
    WritesFromOutPos k s (countStored t) := by
  rw [countStored_eq]
  exact h

theorem runLitlen_literal_writes {n : Nat} {s t : State} (hn : n < 256) (h : runLitlen n s = .next t) :
    Faulted s t ∨ WritesFromOutPos 1 s t := by
  rw [runLitlen_literal hn] at h
  rcases settle_next h with happ | ⟨e, -, hfault⟩
  · exact .inr (outAppend_writesFromOutPos happ)
  · exact .inl ⟨e, hfault⟩

/-- Settles O50: a stored byte and a literal append one byte, a distance symbol copies the pending length; every other
instruction with an effect appends nothing. -/
theorem appendersWriteAtOutPosOnly : Obligations.AppendersWriteAtOutPosOnly := by
  intro i s t happ h
  change Faulted s t ∨ WritesFromOutPos (appendCount i s) s t
  have of_word {p : Phase} (hi : wordPhase i = some p) : p = .storedCopy := by
    simpa [appends_of_wordPhase hi] using happ
  have not_cl (hi : isClSymbol i = true) : False := by simp [appends_of_isClSymbol hi] at happ
  have of_litlen {n : Nat} (hi : litlenNumber i = some n) : Faulted s t ∨ WritesFromOutPos (appendCount i s) s t := by
    have hn : n < 256 := by simpa [appends_of_litlenNumber hi] using happ
    rw [appendCount_of_litlenNumber hi]
    exact runLitlen_literal_writes hn (exec_eq_runLitlen hi s ▸ h)
  cases exec_effect h with
  | fault e he => exact .inl ⟨e, rfl⟩
  | storedByte b s' hi ha =>
    rw [appendCount_of_wordPhase hi]
    exact .inr (countStored_writesFromOutPos (outAppend_writesFromOutPos ha))
  | distance n distance e x len r t hi hm he hr hc =>
    rw [appendCount_of_distNumber hi hm]
    have hcopy := copyMatch_writesFromOutPos hc
    exact .inr hcopy
  | literal b t n hi ha => exact of_litlen hi
  | endOfBlock n hi => exact of_litlen hi
  | length n len e x r hi hn he hr => exact of_litlen hi
  | oneLength v hi => exact (not_cl hi).elim
  | repeated v base e x r hi hx he hr hle => exact (not_cl hi).elim
  | _ => cases of_word ‹wordPhase i = some _›

end Sys2Proof.Machine

/-! ## Bit strings in stream order

Fields and code words as bit strings (20_memory R42 to R44), and what a program READs of them. -/

namespace Sys2Proof.Machine

open Sys2Proof

/-! ### Fields -/

@[simp] theorem length_fieldBits (n v : Nat) : (fieldBits n v).length = n := by
  induction n generalizing v with
  | zero => rfl
  | succ n ih => simp [fieldBits, ih]

/-- A field's bits are those of its value, from bit 0 on (R43). -/
theorem fieldBits_eq_map_testBit (n v : Nat) : fieldBits n v = (List.range n).map v.testBit := by
  induction n generalizing v with
  | zero => rfl
  | succ n ih =>
    rw [List.range_succ_eq_map, List.map_cons, List.map_map, fieldBits, ih]
    congr 1
    · rw [Nat.testBit_zero]
      rfl
    · exact List.map_congr_left fun i _ => (Nat.testBit_succ v i).symm

/-- A field holds the low bits only. -/
@[simp] theorem fieldBits_mod (n v : Nat) : fieldBits n (v % 2 ^ n) = fieldBits n v := by
  simp only [fieldBits_eq_map_testBit]
  exact List.map_congr_left fun i hi => by simp [Nat.testBit_mod_two_pow, List.mem_range.mp hi]

/-- A wide field is its low part before its high part. -/
theorem fieldBits_add (m n v : Nat) : fieldBits (m + n) v = fieldBits m v ++ fieldBits n (v / 2 ^ m) := by
  simp only [fieldBits_eq_map_testBit, List.range_add, List.map_append, List.map_map]
  congr 1
  exact List.map_congr_left fun i _ => by simp [Nat.testBit_div_two_pow, Nat.add_comm]

/-- Two fields in a row are one field. -/
theorem fieldBits_append {m v : Nat} (n u : Nat) (h : v < 2 ^ m) :
    fieldBits m v ++ fieldBits n u = fieldBits (m + n) (v + 2 ^ m * u) := by
  rw [fieldBits_add, Nat.add_mul_div_left _ _ (Nat.two_pow_pos m), Nat.div_eq_of_lt h, Nat.zero_add,
    ← fieldBits_mod m (v + _), Nat.add_mul_mod_self_left, Nat.mod_eq_of_lt h]

/-- READ of a field gives its value (R43). -/
@[simp] theorem natOfBits_fieldBits (n v : Nat) : natOfBits (fieldBits n v) = v % 2 ^ n := by
  induction n generalizing v with
  | zero => simp [fieldBits, natOfBits, Nat.mod_one]
  | succ n ih =>
    have hbit : (v % 2 == 1).toNat = v % 2 := by
      rcases Nat.mod_two_eq_zero_or_one v with h | h <;> simp [h]
    rw [fieldBits, natOfBits, ih, hbit, Nat.pow_succ', Nat.mod_mul]

/-- The field of a bit string's value is the string, with zeros after it. -/
theorem fieldBits_natOfBits {n : Nat} {bits : List Bool} (h : bits.length ≤ n) :
    fieldBits n (natOfBits bits) = bits ++ List.replicate (n - bits.length) false := by
  induction bits generalizing n with
  | nil =>
    exact List.eq_replicate_iff.mpr ⟨by simp, by simp [fieldBits_eq_map_testBit, natOfBits]⟩
  | cons b bits ih =>
    obtain ⟨m, rfl⟩ := Nat.exists_eq_add_of_le' (show 1 ≤ n by simp at h; omega)
    have hb : ((b.toNat + 2 * natOfBits bits) % 2 == 1) = b := by cases b <;> simp
    have hdiv : (b.toNat + 2 * natOfBits bits) / 2 = natOfBits bits := by have := b.toNat_lt; omega
    rw [fieldBits, natOfBits, hb, hdiv, ih (by simpa using h)]
    simp

theorem natOfBits_lt (bits : List Bool) : natOfBits bits < 2 ^ bits.length := by
  have h := natOfBits_fieldBits bits.length (natOfBits bits)
  rw [fieldBits_natOfBits le_rfl] at h
  simp only [Nat.sub_self, List.replicate_zero, List.append_nil] at h
  exact h ▸ Nat.mod_lt _ (Nat.two_pow_pos _)

/-! ### Code words -/

@[simp] theorem length_codeWordBits (n v : Nat) : (codeWordBits n v).length = n := by simp [codeWordBits]

/-- A code word begins with its most significant bit (R44). -/
theorem codeWordBits_succ (n v : Nat) :
    codeWordBits (n + 1) v = fieldBits 1 (v / 2 ^ n) ++ codeWordBits n v := by
  rw [codeWordBits, fieldBits_add, List.reverse_append]
  rfl

/-! ### Bytes -/

/-- The packed bytes begin with the bits (30_encoding R80). -/
theorem isPrefix_bitsOfBytes_packBytes {k : Nat} {bits : List Bool} (h : bits.length ≤ 8 * k) :
    bits <+: bitsOfBytes (packBytes k bits) := by
  induction k generalizing bits with
  | zero =>
    rw [List.length_eq_zero_iff.mp (show bits.length = 0 by omega)]
    exact ⟨_, rfl⟩
  | succ k ih =>
    have hlen : (bits.take 8).length ≤ 8 := by simp
    have hbyte : (BitVec.ofNat 8 (natOfBits (bits.take 8))).toNat = natOfBits (bits.take 8) := by
      rw [BitVec.toNat_ofNat, Nat.mod_eq_of_lt]
      exact (natOfBits_lt _).trans_le (Nat.pow_le_pow_right (by decide) hlen)
    have hbits : bitsOfBytes (packBytes (k + 1) bits) = bits.take 8 ++
        (List.replicate (8 - (bits.take 8).length) false ++ bitsOfBytes (packBytes k (bits.drop 8))) := by
      rw [packBytes, bitsOfBytes, List.flatMap_cons, hbyte, fieldBits_natOfBits hlen, List.append_assoc]
      rfl
    rw [hbits]
    by_cases h8 : 8 ≤ bits.length
    · obtain ⟨rest, hrest⟩ := ih (bits := bits.drop 8) (by simp; omega)
      have hfull : 8 - (bits.take 8).length = 0 := by simp; omega
      refine ⟨rest, ?_⟩
      rw [hfull, List.replicate_zero, List.nil_append, ← hrest, ← List.append_assoc, List.take_append_drop]
    · rw [List.take_of_length_le (by omega)]
      exact ⟨_, rfl⟩

/-- What the encoder writes begins with the instruction's own bits. -/
theorem encodeBits_isPrefix_encode (c : DecodeCtx) (i : Instr) : encodeBits c i <+: bitsOfBytes (encode c i) :=
  isPrefix_bitsOfBytes_packBytes (by omega)

/-! ### Programs over a bit string -/

/-- READ takes a field off the front of the stream bits, if they are long enough (40 R91, R94). -/
theorem runBits_read_ok_iff {α : Type} {n pos : Nat} {k : Nat → BitProg α} {bits : List Bool} {x : α × Nat} :
    (BitProg.read n k).runBits pos bits = .ok x ↔
      ∃ v rest, v < 2 ^ n ∧ bits = fieldBits n v ++ rest ∧ (k v).runBits (pos + n) rest = .ok x := by
  constructor
  · intro h
    simp only [BitProg.runBits] at h
    split at h
    · rename_i hn
      have hlen : (bits.take n).length = n := by simp [hn]
      have hfield := fieldBits_natOfBits hlen.le
      have hlt := natOfBits_lt (bits.take n)
      rw [hlen] at hlt
      refine ⟨_, _, hlt, ?_, h⟩
      simp [hfield, hn]
    · cases h
  · rintro ⟨v, rest, hv, rfl, h⟩
    simpa [BitProg.runBits, Nat.mod_eq_of_lt hv] using h

/-- READ of a field that stands at the front. -/
theorem runBits_read_fieldBits {α : Type} {n : Nat} (v pos : Nat) (k : Nat → BitProg α) (rest : List Bool) :
    (BitProg.read n k).runBits pos (fieldBits n v ++ rest) = (k (v % 2 ^ n)).runBits (pos + n) rest := by
  simp [BitProg.runBits]

theorem runBits_done {α : Type} (a : α) (pos : Nat) (bits : List Bool) :
    (BitProg.done a).runBits pos bits = .ok (a, pos) := rfl

/-- ALIGN at the start of a byte string does nothing (40 R93). -/
theorem runBits_align_zero {α : Type} (k : BitProg α) (bits : List Bool) :
    (BitProg.align k).runBits 0 bits = k.runBits 0 bits := rfl

/-- A program's answer satisfies what every answer satisfies. -/
theorem answers_runBits {α : Type} {P : α → Prop} {p : BitProg α} {pos : Nat} {bits : List Bool} {x : α × Nat}
    (hP : Answers P p) (h : p.runBits pos bits = .ok x) : P x.1 := by
  induction p generalizing pos bits with
  | done b => cases h; exact hP
  | reject e => cases h
  | read n k ih =>
    obtain ⟨v, rest, -, -, h⟩ := runBits_read_ok_iff.mp h
    exact ih v (hP v) h
  | align k ih => exact ih hP h

end Sys2Proof.Machine

/-! ## DECODE and the canonical code

`decodeProg` takes exactly the code word that `codeOf` gives a symbol (41 R103, 42 R111), for every table; only the way
back needs that no symbol stands twice. -/

namespace Sys2Proof.Machine

open Sys2Proof

/-- A code's length is one of those the search runs over. -/
theorem codeAtPosition_length {w : Nat} {T : HuffTable w} {p k l first idx l' code : Nat}
    (h : codeAtPosition T p k l first idx = some (l', code)) : l ≤ l' ∧ l' < l + k := by
  induction k generalizing l first idx with
  | zero => cases h
  | succ k ih =>
    simp only [codeAtPosition] at h
    split at h
    · cases h; omega
    · have := ih h; omega

/-- A code begins at or above the first code of each shorter length. -/
theorem first_le_codeAtPosition {w : Nat} {T : HuffTable w} {p k l first idx l' code : Nat}
    (h : codeAtPosition T p k l first idx = some (l', code)) : first * 2 ^ (l' - l) ≤ code := by
  induction k generalizing l first idx with
  | zero => cases h
  | succ k ih =>
    simp only [codeAtPosition] at h
    split at h
    · cases h; simp
    · have hle := (codeAtPosition_length h).1
      calc first * 2 ^ (l' - l) ≤ (first + lengthCount T l) * 2 ^ (l' - l) :=
            Nat.mul_le_mul_right _ (Nat.le_add_right _ _)
        _ = 2 * (first + lengthCount T l) * 2 ^ (l' - (l + 1)) := by
            rw [show l' - l = l' - (l + 1) + 1 by omega, Nat.pow_succ]; ring
        _ ≤ code := ih h

/-- The symbol at a place of `SYMBOLS`. -/
def symbolAt {w : Nat} (T : HuffTable w) (p : Nat) : BitProg (BitVec w) :=
  match T.symbols[p]? with
  | some sym => .done sym
  | none => .reject .symbolEntryAbsent

theorem runBits_symbolAt_ok_iff {w : Nat} {T : HuffTable w} {p pos : Nat} {bits : List Bool} {x : BitVec w × Nat} :
    (symbolAt T p).runBits pos bits = .ok x ↔ T.symbols[p]? = some x.1 ∧ pos = x.2 := by
  unfold symbolAt
  cases T.symbols[p]? with
  | none => simp [BitProg.runBits]
  | some sym => simp [runBits_done, Prod.ext_iff]

/-- One round of DECODE where the bit read makes the code so far `code` (42 R111). -/
theorem runBits_decodeSymbol_succ {w : Nat} (T : HuffTable w) (k l first idx pos : Nat) {code : Nat}
    (rest : List Bool) (h : code < 2 ^ 15) :
    (decodeSymbol T (k + 1) l (code / 2) first idx).runBits pos (fieldBits 1 code ++ rest) =
      (if code < first + lengthCount T l then symbolAt T (idx + (code - first))
        else decodeSymbol T k (l + 1) code (2 * (first + lengthCount T l)) (idx + lengthCount T l)).runBits
          (pos + 1) rest := by
  have hcode : (2 * (code / 2) + code % 2 ^ 1) % 0x8000 = code := by omega
  rw [decodeSymbol, runBits_read_fieldBits, hcode]
  rfl

/-- DECODE, at length `l` with the code's bits above the last `n + 1` read, finds the symbol whose code it is. -/
theorem runBits_decodeSymbol_codeWord {w : Nat} {T : HuffTable w} {sym : BitVec w} {p k l first idx n code : Nat}
    (hk : l + k ≤ 16) (hp : idx ≤ p) (hsym : T.symbols[p]? = some sym)
    (h : codeAtPosition T p k l first idx = some (l + n, code)) (hcode : code < 2 ^ (l + n)) (pos : Nat)
    (rest : List Bool) :
    (decodeSymbol T k l (code / 2 ^ (n + 1)) first idx).runBits pos (codeWordBits (n + 1) code ++ rest) =
      .ok (sym, pos + (n + 1)) := by
  induction k generalizing l first idx n pos with
  | zero => cases h
  | succ k ih =>
    have hlen := codeAtPosition_length h
    have hshort : code / 2 ^ n < 2 ^ 15 := by
      have hl : code / 2 ^ n < 2 ^ l := by rwa [Nat.div_lt_iff_lt_mul (Nat.two_pow_pos n), ← pow_add]
      exact hl.trans_le (Nat.pow_le_pow_right (by decide) (by omega))
    rw [codeWordBits_succ, List.append_assoc, Nat.pow_succ, ← Nat.div_div_eq_div_mul,
      runBits_decodeSymbol_succ T k l first idx pos _ hshort]
    simp only [codeAtPosition] at h
    split at h
    · rename_i hhit
      obtain ⟨hn, rfl⟩ : l = l + n ∧ first + (p - idx) = code := by simpa using h
      obtain rfl : n = 0 := by omega
      have hpos : idx + (first + (p - idx) - first) = p := by omega
      simp only [pow_zero, Nat.div_one]
      rw [if_pos (by omega), hpos, runBits_symbolAt_ok_iff]
      exact ⟨hsym, rfl⟩
    · obtain ⟨m, rfl⟩ : ∃ m, n = m + 1 := by
        have := (codeAtPosition_length h).1
        exact ⟨n - 1, by omega⟩
      have hmiss : first + lengthCount T l ≤ code / 2 ^ (m + 1) := by
        have hfirst := first_le_codeAtPosition h
        rw [show l + (m + 1) - (l + 1) = m by omega] at hfirst
        rw [Nat.le_div_iff_mul_le (Nat.two_pow_pos _), Nat.pow_succ]
        linarith
      rw [show l + (m + 1) = l + 1 + m by omega] at h hcode
      rw [if_neg (Nat.not_lt.mpr hmiss), ih (by omega) (by omega) h hcode]
      congr 2
      omega

/-- What DECODE answers, from length `l` on, stands at a position whose code is the bits it took. -/
theorem codeAtPosition_of_runBits {w : Nat} {T : HuffTable w} {sym : BitVec w} {k l code first idx pos pos' : Nat}
    {bits : List Bool} (hk : l + 1 + k ≤ 16) (hcode : code < 2 ^ l) (hfirst : first ≤ 2 * code)
    (h : (decodeSymbol T k (l + 1) code first idx).runBits pos bits = .ok (sym, pos')) :
    ∃ p n code', idx ≤ p ∧ T.symbols[p]? = some sym ∧
      codeAtPosition T p k (l + 1) first idx = some (l + n, code') ∧ code' < 2 ^ (l + n) ∧ code' / 2 ^ n = code ∧
      pos' = pos + n ∧ codeWordBits n code' <+: bits := by
  induction k generalizing l code first idx pos bits with
  | zero => cases h
  | succ k ih =>
    obtain ⟨bit, rest, hbit, rfl, -⟩ := runBits_read_ok_iff.mp h
    obtain ⟨new, rfl, hnew⟩ : ∃ new, code = new / 2 ∧ fieldBits 1 bit = fieldBits 1 new :=
      ⟨2 * code + bit, by omega, by rw [← fieldBits_mod 1 (2 * code + bit)]; congr 1; omega⟩
    have hlt : new < 2 ^ (l + 1) := by rw [Nat.pow_succ]; omega
    have hshort : new < 2 ^ 15 := hlt.trans_le (Nat.pow_le_pow_right (by decide) (by omega))
    rw [hnew, runBits_decodeSymbol_succ T k (l + 1) first idx pos rest hshort] at h
    rw [hnew]
    split at h
    · rename_i hhit
      obtain ⟨hsym, rfl⟩ := runBits_symbolAt_ok_iff.mp h
      refine ⟨_, 1, new, Nat.le_add_right _ _, hsym, ?_, hlt, by simp, rfl, ?_⟩
      · have hplace : first + (idx + (new - first) - idx) = new := by omega
        rw [codeAtPosition, if_pos (by omega), hplace]
      · rw [codeWordBits_succ, pow_zero, Nat.div_one]
        exact ⟨rest, rfl⟩
    · rename_i hmiss
      obtain ⟨p, n, code, hp, hsym, hat, hfits, rfl, rfl, tail, htail⟩ := ih (by omega) hlt (by omega) h
      rw [Nat.add_right_comm l 1 n] at hat hfits
      refine ⟨p, n + 1, code, by omega, hsym, ?_, hfits, ?_, by omega, ?_⟩
      · rw [codeAtPosition, if_neg (by omega), hat, Nat.add_assoc]
      · rw [Nat.pow_succ, Nat.div_div_eq_div_mul]
      · exact ⟨tail, by rw [codeWordBits_succ, List.append_assoc, htail]⟩

/-- In a list that holds each entry once, the search for an entry finds its place. -/
theorem findIdx?_of_nodup {w p : Nat} {sym : BitVec w} {symbols : List (BitVec w)} (hnd : symbols.Nodup)
    (h : symbols[p]? = some sym) : symbols.findIdx? (· == sym) = some p := by
  obtain ⟨hp, hget⟩ := List.getElem?_eq_some_iff.mp h
  rw [List.findIdx?_eq_some_iff_getElem]
  refine ⟨hp, by simp [hget], fun j hj => ?_⟩
  have hne : symbols[j] ≠ sym := fun heq => hj.ne ((hnd.getElem_inj_iff).mp (heq.trans hget.symm))
  simpa using hne

theorem codeOf_of_getElem? {w p : Nat} {T : HuffTable w} {sym : BitVec w} (hnd : T.symbols.Nodup)
    (h : T.symbols[p]? = some sym) : codeOf T sym = codeAtPosition T p 15 1 0 0 := by
  rw [codeOf, findIdx?_of_nodup hnd h]
  rfl

theorem getElem?_of_codeOf {w : Nat} {T : HuffTable w} {sym : BitVec w} {x : Nat × Nat} (h : codeOf T sym = some x) :
    ∃ p, T.symbols[p]? = some sym ∧ codeAtPosition T p 15 1 0 0 = some x := by
  obtain ⟨p, hp, hx⟩ := Option.bind_eq_some_iff.mp h
  obtain ⟨hlt, hsym, -⟩ := List.findIdx?_eq_some_iff_getElem.mp hp
  exact ⟨p, by rw [List.getElem?_eq_getElem hlt, beq_iff_eq.mp hsym], hx⟩

/-- On the bits of a symbol's code DECODE answers the symbol (41 R103, 42 R111). -/
theorem runBits_decodeProg_codeWord {w l code : Nat} {T : HuffTable w} {sym : BitVec w}
    (h : codeOf T sym = some (l, code)) (hcode : code < 2 ^ l) (pos : Nat) (rest : List Bool) :
    (decodeProg T).runBits pos (codeWordBits l code ++ rest) = .ok (sym, pos + l) := by
  obtain ⟨p, hsym, hat⟩ := getElem?_of_codeOf h
  obtain ⟨n, rfl⟩ := Nat.exists_eq_add_of_le (codeAtPosition_length hat).1
  have hrun := runBits_decodeSymbol_codeWord (by decide) (Nat.zero_le p) hsym hat hcode pos rest
  rw [Nat.div_eq_of_lt (by rwa [Nat.add_comm n 1]), Nat.add_comm n 1] at hrun
  exact hrun

/-- What DECODE answers has a code that fits its length, and the code's bits are those it took. -/
theorem codeOf_of_runBits {w pos pos' : Nat} {T : HuffTable w} {sym : BitVec w} {bits : List Bool}
    (hnd : T.symbols.Nodup) (h : (decodeProg T).runBits pos bits = .ok (sym, pos')) :
    ∃ l code, codeOf T sym = some (l, code) ∧ code < 2 ^ l ∧ pos' = pos + l ∧ codeWordBits l code <+: bits := by
  obtain ⟨p, n, code, -, hsym, hat, hlt, -, hpos, hpre⟩ :=
    codeAtPosition_of_runBits (l := 0) (by decide) (by decide) (Nat.zero_le _) h
  simp only [Nat.zero_add] at hat hlt
  exact ⟨n, code, (codeOf_of_getElem? hnd hsym).trans hat, hlt, hpos, hpre⟩

end Sys2Proof.Machine

/-! ## The code words of a fixed block

The symbols of the two fixed tables in the order BUILD leaves them, and the code word of each (30_encoding R71, R72; 44
R135). -/

namespace Sys2Proof.Machine

open Sys2Proof

/-- The symbols of one length among consecutive symbols from `n` on. -/
def symbolsFrom (n : Nat) (L : List Nat) (l : Nat) : List Nat :=
  ((L.zipIdx n).filter fun p => p.1 == l).map Prod.snd

theorem symbolsOfLength_eq_symbolsFrom (L : List Nat) (l : Nat) : symbolsOfLength L l = symbolsFrom 0 L l := rfl

theorem symbolsFrom_append (n : Nat) (L M : List Nat) (l : Nat) :
    symbolsFrom n (L ++ M) l = symbolsFrom n L l ++ symbolsFrom (n + L.length) M l := by
  simp [symbolsFrom, List.zipIdx_append]

theorem symbolsFrom_cons (n a : Nat) (L : List Nat) (l : Nat) :
    symbolsFrom n (a :: L) l = (if a = l then [n] else []) ++ symbolsFrom (n + 1) L l := by
  by_cases h : a = l <;> simp [symbolsFrom, h]

/-- Consecutive symbols of one length. -/
theorem symbolsFrom_replicate (n k a l : Nat) :
    symbolsFrom n (List.replicate k a) l = if a = l then List.range' n k else [] := by
  induction k generalizing n with
  | zero => simp [symbolsFrom]
  | succ k ih =>
    rw [List.replicate_succ, symbolsFrom_cons, ih, List.range'_succ]
    split <;> rfl

/-- The fixed literal/length symbols of each length (44 R135). -/
theorem symbolsOfLength_fixedLitlen (l : Nat) :
    symbolsOfLength fixedLitlenLengths l =
      (if 8 = l then List.range' 0 144 else []) ++ (if 9 = l then List.range' 144 112 else []) ++
        (if 7 = l then List.range' 256 24 else []) ++ if 8 = l then List.range' 280 8 else [] := by
  rw [symbolsOfLength_eq_symbolsFrom, fixedLitlenLengths]
  simp only [symbolsFrom_append, symbolsFrom_replicate, List.length_append, List.length_replicate]

/-- The lengths that R101 sorts by. -/
theorem codeLengths_eq : List.range' 1 15 = [1, 2, 3, 4, 5, 6, 7, 8, 9, 10, 11, 12, 13, 14, 15] := rfl

theorem sortedSymbols_fixedLitlen :
    sortedSymbols fixedLitlenLengths =
      List.range' 256 24 ++ (List.range' 0 144 ++ (List.range' 280 8 ++ List.range' 144 112)) := by
  simp only [sortedSymbols, codeLengths_eq, List.flatMap_cons, List.flatMap_nil, symbolsOfLength_fixedLitlen,
    reduceIte, Nat.reduceEqDiff, List.nil_append, List.append_nil, List.append_assoc]

theorem sortedSymbols_fixedDist : sortedSymbols fixedDistLengths = List.range' 0 32 := by
  simp only [sortedSymbols, codeLengths_eq, List.flatMap_cons, List.flatMap_nil, symbolsOfLength_eq_symbolsFrom,
    fixedDistLengths, symbolsFrom_replicate, reduceIte, Nat.reduceEqDiff, List.nil_append,
    List.append_nil]

/-- The place of a fixed literal/length symbol in `SYMBOLS`. -/
def fixedLitlenPlace (s : Nat) : Nat :=
  if s < 144 then 24 + s else if s < 256 then 176 + (s - 144) else if s < 280 then s - 256 else 168 + (s - 280)

theorem getElem?_range'_append (a n p : Nat) (L : List Nat) :
    (List.range' a n ++ L)[p]? = if p < n then some (a + p) else L[p - n]? := by
  rw [List.getElem?_append, List.length_range']
  split
  · rename_i h
    rw [List.getElem?_range' h, Nat.one_mul]
  · rfl

theorem getElem?_sortedSymbols_fixedLitlen {s : Nat} (h : s < 288) :
    (sortedSymbols fixedLitlenLengths)[fixedLitlenPlace s]? = some s := by
  have hlast : List.range' 144 112 = List.range' 144 112 ++ [] := (List.append_nil _).symm
  rw [sortedSymbols_fixedLitlen, hlast, fixedLitlenPlace]
  simp only [getElem?_range'_append]
  split_ifs <;> simp <;> omega

theorem lengthCount_fixedLitlen {l : Nat} (h1 : 1 ≤ l) (h15 : l ≤ 15) :
    lengthCount (tableOf 9 fixedLitlenLengths) l =
      if l = 7 then 24 else if l = 8 then 152 else if l = 9 then 112 else 0 := by
  rw [lengthCount_tableOf 9 (by rw [length_fixedLitlenLengths]; decide) h1 h15]
  simp only [fixedLitlenLengths, List.count_append, List.count_replicate, beq_iff_eq]
  split_ifs <;> omega

theorem lengthCount_fixedDist {l : Nat} (h1 : 1 ≤ l) (h15 : l ≤ 15) :
    lengthCount (tableOf 5 fixedDistLengths) l = if l = 5 then 32 else 0 := by
  rw [lengthCount_tableOf 5 (by simp [fixedDistLengths]) h1 h15]
  simp only [fixedDistLengths, List.count_replicate, beq_iff_eq]
  split_ifs <;> omega

/-- The codes in the order of `SYMBOLS`: 24 of 7 bits, 152 of 8 bits from 48 on, 112 of 9 bits from 400 on. -/
theorem codeAtPosition_fixedLitlen {p : Nat} (h : p < 288) :
    codeAtPosition (tableOf 9 fixedLitlenLengths) p 15 1 0 0 =
      some (if p < 24 then (7, p) else if p < 176 then (8, 48 + (p - 24)) else (9, 400 + (p - 176))) := by
  simp [codeAtPosition, lengthCount_fixedLitlen, h]
  split_ifs <;> rfl

theorem codeAtPosition_fixedDist {p : Nat} (h : p < 32) :
    codeAtPosition (tableOf 5 fixedDistLengths) p 15 1 0 0 = some (5, p) := by
  simp [codeAtPosition, lengthCount_fixedDist, h]

theorem codeOf_fixedLitlen {s : Nat} (h : s < 288) :
    codeOf (tableOf 9 fixedLitlenLengths) (BitVec.ofNat 9 s) =
      some (if s < 144 then (8, 48 + s) else if s < 256 then (9, 400 + (s - 144))
        else if s < 280 then (7, s - 256) else (8, 192 + (s - 280))) := by
  obtain ⟨-, -, -, -, hnd⟩ := tableInv_fixedLitlen
  have hplace : (tableOf 9 fixedLitlenLengths).symbols[fixedLitlenPlace s]? = some (BitVec.ofNat 9 s) := by
    rw [tableOf, List.getElem?_map, getElem?_sortedSymbols_fixedLitlen h, Option.map_some]
  have hlt : fixedLitlenPlace s < 288 := by unfold fixedLitlenPlace; split_ifs <;> omega
  rw [codeOf_of_getElem? hnd hplace, codeAtPosition_fixedLitlen hlt, fixedLitlenPlace]
  split_ifs <;> simp <;> omega

theorem codeOf_fixedDist {s : Nat} (h : s < 32) :
    codeOf (tableOf 5 fixedDistLengths) (BitVec.ofNat 5 s) = some (5, s) := by
  obtain ⟨-, -, -, -, hnd⟩ := tableInv_fixedDist
  have hplace : (tableOf 5 fixedDistLengths).symbols[s]? = some (BitVec.ofNat 5 s) := by
    rw [tableOf, List.getElem?_map, sortedSymbols_fixedDist, List.getElem?_range' h]
    simp
  rw [codeOf_of_getElem? hnd hplace, codeAtPosition_fixedDist h]

/-- Settles O6: each symbol by its place in `SYMBOLS`, and the code of that place. -/
theorem fixedCodeWords : Obligations.FixedCodeWords :=
  ⟨fun _ h => codeOf_fixedLitlen h, fun _ h => codeOf_fixedDist h⟩

end Sys2Proof.Machine

/-! ## Encoding and decoding

Decoding inverts encoding, and what the decoder reads is what the encoder writes (30_encoding R61 to R66, R71, R72, R77,
R79). A symbol's element goes through DECODE and `codeOf`; a fixed-width element through its fields. -/

namespace Sys2Proof.Machine

open Sys2Proof

/-! ### The instruction of a shape -/

theorem clInstr_of_shape {i : Instr} {sym : BitVec 5} (h : shape i = .clSym sym) : clInstr sym = some i := by
  cases i <;> simp only [shape, Shape.clSym.injEq, reduceCtorEq] at h <;> subst h
  case clLen v =>
    have hv : (v.setWidth 5).toNat = v.toNat := by simp; omega
    rw [clInstr, hv, if_pos v.isLt]
    simp
  all_goals rfl

theorem llInstr_of_shape {i : Instr} {sym : BitVec 9} (h : shape i = .llSym sym) : llInstr sym = some i := by
  cases i <;> simp only [shape, Shape.llSym.injEq, reduceCtorEq] at h <;> subst h
  case lit b =>
    have hb : (b.setWidth 9).toNat = b.toNat := by simp; omega
    rw [llInstr, hb, if_pos b.isLt]
    simp
  all_goals rfl

theorem dInstr_of_shape {i : Instr} {sym : BitVec 5} (h : shape i = .dSym sym) : dInstr sym = some i := by
  cases i <;> simp only [shape, Shape.dSym.injEq, reduceCtorEq] at h <;> subst h <;> rfl

theorem eq_fixedD_of_shape {i : Instr} {sym : BitVec 5} (h : shape i = .fixedD sym) : i = .fixedD0To31 sym := by
  cases i <;> simp only [shape, Shape.fixedD.injEq, reduceCtorEq] at h
  rw [h]

/-- A fixed literal/length row spells the code word of its symbol (R71). -/
theorem codeOf_of_shape_fixedLl {i : Instr} {sym : BitVec 9} {len code : Nat} (h : shape i = .fixedLl len code sym) :
    codeOf (tableOf 9 fixedLitlenLengths) sym = some (len, code) ∧ code < 2 ^ len := by
  cases i <;> simp only [shape, Shape.fixedLl.injEq, reduceCtorEq] at h <;> obtain ⟨rfl, rfl, rfl⟩ := h
  all_goals
    rw [codeOf_fixedLitlen (by omega)]
    refine ⟨?_, by omega⟩
    simp (disch := omega) only [if_pos, if_neg, Option.some.injEq, Prod.mk.injEq, true_and] <;> omega

theorem fixedLlInstr_of_shape {i : Instr} {sym : BitVec 9} {len code : Nat} (h : shape i = .fixedLl len code sym) :
    fixedLlInstr sym = some i := by
  cases i <;> simp only [shape, Shape.fixedLl.injEq, reduceCtorEq] at h <;> obtain ⟨rfl, rfl, rfl⟩ := h
  all_goals
    rw [fixedLlInstr, BitVec.toNat_ofNat, Nat.mod_eq_of_lt (by omega)]
    simp (disch := omega) only [if_pos, if_neg, Nat.add_sub_cancel_left]
    simp

/-! ### Symbols -/

theorem hasCodeWord_iff {w : Nat} {T : HuffTable w} {sym : BitVec w} :
    hasCodeWord T sym = true ↔ ∃ l code, codeOf T sym = some (l, code) ∧ code < 2 ^ l := by
  unfold hasCodeWord
  cases codeOf T sym with
  | none => simp
  | some x =>
    refine ⟨fun h => ⟨x.1, x.2, rfl, by simpa using h⟩, ?_⟩
    rintro ⟨l, code, ⟨⟩, h⟩
    simpa using h

theorem symbolBits_of_codeOf {w l code : Nat} {T : HuffTable w} {sym : BitVec w} (h : codeOf T sym = some (l, code)) :
    symbolBits T sym = codeWordBits l code := by
  simp [symbolBits, h]

/-- A symbol's bits are read as the symbol's instruction. -/
theorem runBits_symbolBits {w : Nat} {T : HuffTable w} {f : BitVec w → Option Instr} {sym : BitVec w} {i : Instr}
    (hsym : hasCodeWord T sym = true) (hf : f sym = some i) (rest : List Bool) :
    ((decodeProg T).bind fun sym => instrOr (f sym)).runBits 0 (symbolBits T sym ++ rest) =
      .ok (i, (symbolBits T sym).length) := by
  obtain ⟨l, code, hcode, hlt⟩ := hasCodeWord_iff.mp hsym
  rw [symbolBits_of_codeOf hcode, runBits_bind, runBits_decodeProg_codeWord hcode hlt]
  simp [hf, instrOr, runBits_done]

/-- What is read as a symbol's instruction begins with the symbol's bits. -/
theorem symbolBits_of_runBits {w n : Nat} {T : HuffTable w} {f : BitVec w → Option Instr} {i : Instr}
    {bits : List Bool} (hnd : T.symbols.Nodup)
    (h : ((decodeProg T).bind fun sym => instrOr (f sym)).runBits 0 bits = .ok (i, n)) :
    ∃ sym, f sym = some i ∧ hasCodeWord T sym = true ∧ n = (symbolBits T sym).length ∧
      symbolBits T sym <+: bits := by
  rw [runBits_bind] at h
  split at h
  · rename_i sym pos hrun
    obtain ⟨l, code, hcode, hlt, rfl, hpre⟩ := codeOf_of_runBits hnd hrun
    cases hf : f sym with
    | none => rw [hf] at h; cases h
    | some j =>
      rw [hf] at h
      cases h
      refine ⟨sym, hf, hasCodeWord_iff.mpr ⟨l, code, hcode, hlt⟩, ?_, ?_⟩ <;> rw [symbolBits_of_codeOf hcode]
      · simp
      · exact hpre
  · cases h

/-! ### The element's own bits, by its form -/

theorem encodeBits_of_clSym {i : Instr} {sym : BitVec 5} (h : shape i = .clSym sym) (c : DecodeCtx) :
    encodeBits c i = symbolBits c.tCl sym := by simp [encodeBits, h]

theorem encodeBits_of_llSym {i : Instr} {sym : BitVec 9} (h : shape i = .llSym sym) (c : DecodeCtx) :
    encodeBits c i = symbolBits c.tLl sym := by simp [encodeBits, h]

theorem encodeBits_of_dSym {i : Instr} {sym : BitVec 5} (h : shape i = .dSym sym) (c : DecodeCtx) :
    encodeBits c i = symbolBits c.tD sym := by simp [encodeBits, h]

/-- With the fixed table a row's own code word is its symbol's (R71, R81). -/
theorem encodeBits_of_fixedLl {i : Instr} {sym : BitVec 9} {len code : Nat} (h : shape i = .fixedLl len code sym)
    {c : DecodeCtx} (hT : c.tLl = tableOf 9 fixedLitlenLengths) : encodeBits c i = symbolBits c.tLl sym := by
  rw [hT, symbolBits_of_codeOf (codeOf_of_shape_fixedLl h).1]
  simp [encodeBits, h]

theorem hasCodeWord_fixedLl {i : Instr} {sym : BitVec 9} {len code : Nat} (h : shape i = .fixedLl len code sym)
    {c : DecodeCtx} (hT : c.tLl = tableOf 9 fixedLitlenLengths) : hasCodeWord c.tLl sym = true :=
  hT ▸ hasCodeWord_iff.mpr ⟨len, code, codeOf_of_shape_fixedLl h⟩

theorem codeOf_fixedD (sym : BitVec 5) : codeOf (tableOf 5 fixedDistLengths) sym = some (5, sym.toNat) := by
  have h := codeOf_fixedDist sym.isLt
  rwa [BitVec.ofNat_toNat, BitVec.setWidth_eq] at h

theorem encodeBits_fixedD (sym : BitVec 5) {c : DecodeCtx} (hT : c.tD = tableOf 5 fixedDistLengths) :
    encodeBits c (.fixedD0To31 sym) = symbolBits c.tD sym := by
  rw [hT, symbolBits_of_codeOf (codeOf_fixedD sym)]
  rfl

theorem hasCodeWord_fixedD (sym : BitVec 5) {c : DecodeCtx} (hT : c.tD = tableOf 5 fixedDistLengths) :
    hasCodeWord c.tD sym = true :=
  hT ▸ hasCodeWord_iff.mpr ⟨5, sym.toNat, codeOf_fixedD sym, sym.isLt⟩

theorem ofNat_toNat_mod {w : Nat} (x : BitVec w) : BitVec.ofNat w (x.toNat % 2 ^ w) = x := by
  rw [Nat.mod_eq_of_lt x.isLt, BitVec.ofNat_toNat, BitVec.setWidth_eq]

/-- `CMF` and `FLG` as the two numbers that are READ (R61). -/
theorem encodeBits_zhdr (c : DecodeCtx) (cm cinfo : BitVec 4) (fcheck : BitVec 5) (fdict : BitVec 1)
    (flevel : BitVec 2) :
    encodeBits c (.zhdr cm cinfo fcheck fdict flevel) = fieldBits 8 (cm.toNat + 2 ^ 4 * cinfo.toNat) ++
      fieldBits 8 (fcheck.toNat + 2 ^ 5 * (fdict.toNat + 2 ^ 1 * flevel.toNat)) := by
  rw [← fieldBits_append 4 _ cm.isLt, ← fieldBits_append 3 _ fcheck.isLt, ← fieldBits_append 2 _ fdict.isLt]
  simp [encodeBits, shape]

/-! ### Decoding what was encoded -/

/-- A fixed-width element is read back from its fields. -/
theorem runBits_encodeBits_word {c : DecodeCtx} {i : Instr} {p : Phase} {fields : List (Nat × Nat)}
    (hs : shape i = .word p fields) (hp : c.phase = p) (rest : List Bool) :
    (elementProg c).runBits 0 (encodeBits c i ++ rest) = .ok (i, (encodeBits c i).length) := by
  subst hp
  cases i <;> simp only [shape, Shape.word.injEq, reduceCtorEq] at hs <;> obtain ⟨hp, -⟩ := hs
  case zhdr cm cinfo fcheck fdict flevel =>
    simp only [elementProg, ← hp, zhdrProg, encodeBits_zhdr, List.append_assoc, runBits_read_fieldBits, runBits_done]
    simp only [Except.ok.injEq, Prod.mk.injEq, Instr.zhdr.injEq]
    refine ⟨⟨?_, ?_, ?_, ?_, ?_⟩, by simp⟩ <;> bv_omega
  all_goals
    simp only [elementProg, ← hp, blockProg, storedHdrProg, storedByteProg, dynHdrProg, clenProg, adler32Prog,
      encodeBits, shape, List.flatMap_cons, List.flatMap_nil, List.append_nil, List.append_assoc, runBits_align_zero,
      runBits_read_fieldBits, runBits_done, ofNat_toNat_mod]
    simp

/-- A well-formed instruction is read back from its own bits, whatever follows them. -/
theorem runBits_encodeBits {c : DecodeCtx} {i : Instr} (hadm : admits c i = true) (hsp : spellable c i = true)
    (rest : List Bool) :
    (elementProg c).runBits 0 (encodeBits c i ++ rest) = .ok (i, (encodeBits c i).length) := by
  cases hs : shape i with
  | word p fields => exact runBits_encodeBits_word hs (by simpa [admits, hs] using hadm) rest
  | clSym sym =>
    have hp : c.phase = .dynLengths := by simpa [admits, hs] using hadm
    have hcw : hasCodeWord c.tCl sym = true := by simpa [spellable, hs] using hsp
    simp only [elementProg, hp, encodeBits_of_clSym hs]
    exact runBits_symbolBits hcw (clInstr_of_shape hs) rest
  | llSym sym =>
    obtain ⟨⟨hp, hm⟩, hb⟩ : (c.phase = .symbol ∧ c.matchPending = false) ∧ c.btype ≠ 1#2 := by
      simpa [admits, hs] using hadm
    have hcw : hasCodeWord c.tLl sym = true := by simpa [spellable, hs] using hsp
    simp only [elementProg, hp, symbolProg, hm, hb, encodeBits_of_llSym hs]
    exact runBits_symbolBits hcw (llInstr_of_shape hs) rest
  | dSym sym =>
    obtain ⟨⟨hp, hm⟩, hb⟩ : (c.phase = .symbol ∧ c.matchPending = true) ∧ c.btype ≠ 1#2 := by
      simpa [admits, hs] using hadm
    have hcw : hasCodeWord c.tD sym = true := by simpa [spellable, hs] using hsp
    simp only [elementProg, hp, symbolProg, hm, hb, encodeBits_of_dSym hs]
    exact runBits_symbolBits hcw (dInstr_of_shape hs) rest
  | fixedLl len code sym =>
    obtain ⟨⟨hp, hm⟩, hb⟩ : (c.phase = .symbol ∧ c.matchPending = false) ∧ c.btype = 1#2 := by
      simpa [admits, hs] using hadm
    have hT : c.tLl = tableOf 9 fixedLitlenLengths := by simpa [spellable, hs] using hsp
    simp only [elementProg, hp, symbolProg, hm, hb, encodeBits_of_fixedLl hs hT]
    exact runBits_symbolBits (hasCodeWord_fixedLl hs hT) (fixedLlInstr_of_shape hs) rest
  | fixedD sym =>
    obtain ⟨⟨hp, hm⟩, hb⟩ : (c.phase = .symbol ∧ c.matchPending = true) ∧ c.btype = 1#2 := by
      simpa [admits, hs] using hadm
    have hT : c.tD = tableOf 5 fixedDistLengths := by simpa [spellable, hs] using hsp
    obtain rfl := eq_fixedD_of_shape hs
    simp only [elementProg, hp, symbolProg, hm, hb, encodeBits_fixedD sym hT]
    exact runBits_symbolBits (f := fun sym => some (.fixedD0To31 sym)) (hasCodeWord_fixedD sym hT) rfl rest

/-- A byte string that begins with an instruction's own bits decodes to the instruction. -/
theorem decode_of_bits {c : DecodeCtx} {i : Instr} {bytes : List Byte} {rest : List Bool} (hwf : wellFormed c i = true)
    (hbits : bitsOfBytes bytes = encodeBits c i ++ rest) : decode c bytes = .ok (i, (encodeBits c i).length) := by
  obtain ⟨hadm, hsp⟩ := Bool.and_eq_true_iff.mp hwf
  rw [decode, hbits]
  exact runBits_encodeBits hadm hsp rest

/-- Settles O2: the encoder's bytes begin with the instruction's own bits, and these are read back. -/
theorem encodeThenDecode : Obligations.EncodeThenDecode := by
  intro c i hwf
  obtain ⟨rest, hrest⟩ := encodeBits_isPrefix_encode c i
  exact decode_of_bits hwf hrest.symm

/-! ### Encoding what was decoded -/

/-- The instruction has its bits, they stand at the front of the stream bits, and `n` counts them. -/
def ReadFrom (c : DecodeCtx) (i : Instr) (n : Nat) (bits : List Bool) : Prop :=
  spellable c i = true ∧ n = (encodeBits c i).length ∧ encodeBits c i <+: bits

/-- A symbol's instruction whose bits are the symbol's is read from them. -/
theorem readFrom_of_symbol {w n : Nat} {T : HuffTable w} {f : BitVec w → Option Instr} {c : DecodeCtx} {i : Instr}
    {bits : List Bool} (hnd : T.symbols.Nodup)
    (hi : ∀ sym, f sym = some i → hasCodeWord T sym = true →
      spellable c i = true ∧ encodeBits c i = symbolBits T sym)
    (h : ((decodeProg T).bind fun sym => instrOr (f sym)).runBits 0 bits = .ok (i, n)) : ReadFrom c i n bits := by
  obtain ⟨sym, hf, hcw, hn, hpre⟩ := symbolBits_of_runBits hnd h
  obtain ⟨hsp, henc⟩ := hi sym hf hcw
  exact ⟨hsp, henc ▸ hn, henc ▸ hpre⟩

theorem readFrom_symbolProg {c : DecodeCtx} {i : Instr} {n : Nat} {bits : List Bool} (hll : c.tLl.symbols.Nodup)
    (hd : c.tD.symbols.Nodup)
    (hfixed : c.btype = 1#2 → c.tLl = tableOf 9 fixedLitlenLengths ∧ c.tD = tableOf 5 fixedDistLengths)
    (h : (symbolProg c).runBits 0 bits = .ok (i, n)) : ReadFrom c i n bits := by
  unfold symbolProg at h
  by_cases hb : c.btype = 1#2
  · obtain ⟨hTl, hTd⟩ := hfixed hb
    simp only [hb, if_true] at h
    split at h
    · refine readFrom_of_symbol (f := fun sym => some (.fixedD0To31 sym)) hd (fun sym hf _ => ?_) h
      cases hf
      exact ⟨by simp [spellable, shape, hTd], encodeBits_fixedD sym hTd⟩
    · refine readFrom_of_symbol hll (fun sym hf _ => ?_) h
      obtain ⟨len, code, hs⟩ := shape_of_fixedLlInstr hf
      exact ⟨by simp [spellable, hs, hTl], encodeBits_of_fixedLl hs hTl⟩
  · simp only [hb, if_false] at h
    split at h
    · refine readFrom_of_symbol hd (fun sym hf hcw => ?_) h
      have hs := shape_of_dInstr hf
      exact ⟨by simpa [spellable, hs] using hcw, encodeBits_of_dSym hs c⟩
    · refine readFrom_of_symbol hll (fun sym hf hcw => ?_) h
      have hs := shape_of_llInstr hf
      exact ⟨by simpa [spellable, hs] using hcw, encodeBits_of_llSym hs c⟩

/-- A field that was READ into a register is the field. -/
theorem fieldBits_ofNat (w v : Nat) : fieldBits w (BitVec.ofNat w v).toNat = fieldBits w v := by
  rw [BitVec.toNat_ofNat, fieldBits_mod]

/-- A fixed-width element is read from its fields. -/
theorem readFrom_fields {c : DecodeCtx} {i : Instr} {p : Phase} {fields : List (Nat × Nat)} {n : Nat}
    {bits rest : List Bool} (hs : shape i = .word p fields) (hn : n = (fields.map Prod.fst).sum)
    (hbits : bits = (fields.flatMap fun f => fieldBits f.1 f.2) ++ rest) : ReadFrom c i n bits := by
  have henc : encodeBits c i = fields.flatMap fun f => fieldBits f.1 f.2 := by simp [encodeBits, hs]
  refine ⟨by simp [spellable, hs], ?_, rest, by rw [henc, hbits]⟩
  rw [henc, hn, List.length_flatMap]
  simp

theorem readFrom_zhdrProg {c : DecodeCtx} {i : Instr} {n : Nat} {bits : List Bool}
    (h : zhdrProg.runBits 0 bits = .ok (i, n)) : ReadFrom c i n bits := by
  simp only [zhdrProg, runBits_read_ok_iff, runBits_done] at h
  obtain ⟨cmf, _, -, rfl, flg, rest, -, rfl, h⟩ := h
  cases h
  have hcmf : fieldBits 8 cmf = fieldBits 4 cmf ++ fieldBits 4 (cmf / 16) := fieldBits_add 4 4 cmf
  have hflg : fieldBits 8 flg = fieldBits 5 flg ++ (fieldBits 1 (flg / 32) ++ fieldBits 2 (flg / 64)) := by
    rw [show flg / 64 = flg / 32 / 2 by omega]
    exact (fieldBits_add 5 3 flg).trans (congrArg _ (fieldBits_add 1 2 (flg / 32)))
  exact readFrom_fields (rest := rest) rfl rfl (by simp [-BitVec.toNat_ofNat, fieldBits_ofNat, hcmf, hflg])

theorem readFrom_blockProg {c : DecodeCtx} {i : Instr} {n : Nat} {bits : List Bool}
    (h : blockProg.runBits 0 bits = .ok (i, n)) : ReadFrom c i n bits := by
  simp only [blockProg, runBits_read_ok_iff, runBits_done] at h
  obtain ⟨bfinal, _, -, rfl, btype, rest, hbtype, rfl, h⟩ := h
  interval_cases btype <;> cases h <;>
    exact readFrom_fields (rest := rest) rfl rfl (by simp [-BitVec.toNat_ofNat, fieldBits_ofNat])

/-- Whatever the phase's program reads, it reads from the instruction's own bits. -/
theorem readFrom_elementProg {c : DecodeCtx} {i : Instr} {n : Nat} {bits : List Bool} (hcl : c.tCl.symbols.Nodup)
    (hll : c.tLl.symbols.Nodup) (hd : c.tD.symbols.Nodup)
    (hfixed : c.phase = .symbol → c.btype = 1#2 →
      c.tLl = tableOf 9 fixedLitlenLengths ∧ c.tD = tableOf 5 fixedDistLengths)
    (h : (elementProg c).runBits 0 bits = .ok (i, n)) : ReadFrom c i n bits := by
  cases hp : c.phase <;> simp only [elementProg, hp] at h
  case zhdr => exact readFrom_zhdrProg h
  case blockHdr => exact readFrom_blockProg h
  case storedHdr =>
    simp only [storedHdrProg, runBits_align_zero, runBits_read_ok_iff, runBits_done] at h
    obtain ⟨len, _, -, rfl, nlen, rest, -, rfl, h⟩ := h
    cases h
    exact readFrom_fields (rest := rest) rfl rfl (by simp [-BitVec.toNat_ofNat, fieldBits_ofNat])
  case storedCopy =>
    simp only [storedByteProg, runBits_read_ok_iff, runBits_done] at h
    obtain ⟨b, rest, -, rfl, h⟩ := h
    cases h
    exact readFrom_fields (rest := rest) rfl rfl (by simp [-BitVec.toNat_ofNat, fieldBits_ofNat])
  case dynHdr =>
    simp only [dynHdrProg, runBits_read_ok_iff, runBits_done] at h
    obtain ⟨hlit, _, -, rfl, hdist, _, -, rfl, hclen, rest, -, rfl, h⟩ := h
    cases h
    exact readFrom_fields (rest := rest) rfl rfl (by simp [-BitVec.toNat_ofNat, fieldBits_ofNat])
  case dynClen =>
    simp only [clenProg, runBits_read_ok_iff, runBits_done] at h
    obtain ⟨v, rest, -, rfl, h⟩ := h
    cases h
    exact readFrom_fields (rest := rest) rfl rfl (by simp [-BitVec.toNat_ofNat, fieldBits_ofNat])
  case dynLengths =>
    refine readFrom_of_symbol hcl (fun sym hf hcw => ?_) h
    have hs := shape_of_clInstr hf
    exact ⟨by simpa [spellable, hs] using hcw, encodeBits_of_clSym hs c⟩
  case symbol => exact readFrom_symbolProg hll hd (hfixed hp) h
  case trailer =>
    simp only [adler32Prog, runBits_align_zero, runBits_read_ok_iff, runBits_done] at h
    obtain ⟨b0, _, -, rfl, b1, _, -, rfl, b2, _, -, rfl, b3, rest, -, rfl, h⟩ := h
    cases h
    exact readFrom_fields (rest := rest) rfl rfl (by simp [-BitVec.toNat_ofNat, fieldBits_ofNat])
  all_goals cases h

/-- Settles O3: what was read is an element of the context (`answers_elementProg`), and its own bits are the first
`n` (`readFrom_elementProg`). -/
theorem decodeThenEncode : Obligations.DecodeThenEncode := by
  intro c bytes i n hcl hll hd hfixed h
  have hadm : admits c i = true := answers_runBits (answers_elementProg c) h
  obtain ⟨hsp, rfl, rest, hrest⟩ := readFrom_elementProg hcl hll hd hfixed h
  exact ⟨by rw [wellFormed, hadm, hsp]; rfl, by rw [← hrest, List.take_left]⟩

/-! ### Words and tables written out -/

/-- The context of the symbol loop with the fixed literal/length table. -/
def fixedLitlenCtx (btype : BitVec 2) : DecodeCtx :=
  { idleCtx with phase := .symbol, btype := btype, tLl := tableOf 9 fixedLitlenLengths }

/-- The code word `10010001` (R71). -/
theorem decode_fixedLl80To143 : decode (fixedLitlenCtx 1#2) [0x89#8] = .ok (.fixedLl80To143 17, 8) :=
  decode_of_bits (rest := []) (by simp [wellFormed, admits, spellable, shape, fixedLitlenCtx, idleCtx]) rfl

/-- The code word `0000100` of symbol 260 under the fixed code (R71). -/
theorem decode_len260 : decode (fixedLitlenCtx 2#2) [0x10#8] = .ok (.len260, 7) := by
  have hcode : codeOf (fixedLitlenCtx 2#2).tLl 260#9 = some (7, 4) := codeOf_fixedLitlen (s := 260) (by decide)
  have hcw : hasCodeWord (fixedLitlenCtx 2#2).tLl 260#9 = true := hasCodeWord_iff.mpr ⟨7, 4, hcode, by decide⟩
  have hwf : wellFormed (fixedLitlenCtx 2#2) .len260 = true := by
    simpa [wellFormed, admits, spellable, shape, fixedLitlenCtx, idleCtx] using hcw
  have henc : encodeBits (fixedLitlenCtx 2#2) .len260 = codeWordBits 7 4 :=
    (encodeBits_of_llSym rfl _).trans (symbolBits_of_codeOf hcode)
  have h := decode_of_bits (c := fixedLitlenCtx 2#2) (i := .len260) (bytes := [0x10#8]) (rest := [false])
    hwf (by rw [henc]; rfl)
  rwa [henc, length_codeWordBits] at h

/-- Settles O1: the fixed-width words and the distance code word by evaluation, the two literal/length code words by
their codes. -/
theorem decodeWords : Obligations.DecodeWords :=
  ⟨rfl, rfl, rfl, rfl, rfl, rfl, rfl, decode_fixedLl80To143, rfl, decode_len260⟩

/-- Settles O9: the four tables, entry by entry. -/
theorem operandTablesAreContiguous : Obligations.OperandTablesAreContiguous := by
  refine ⟨rfl, rfl, rfl, rfl, ?_, rfl, ?_, rfl, rfl, rfl⟩
  · decide
  · decide

end Sys2Proof.Machine

/-! ## The bit reader and the abstract stream

READ, ALIGN and the fetch over the registers against the stream bits (40 R91 to R94; 30_encoding R79). -/

namespace Sys2Proof.Machine

open Sys2Proof Sys2Proof.Abstract

/-! ### The registers as functions of `bitpos` -/

/-- Under I-BR the three registers are those of `bitpos` (R94). -/
theorem eq_readerAt {l : Launch} {r : BitReader} (h : ReaderInv l r) : r = readerAt l (readerPos r) := by
  obtain ⟨-, hc, hzero, hlast⟩ := h
  have hbyte : bytePosAt (readerPos r) = r.bytePos.toNat := by
    by_cases h0 : r.bitCount.toNat = 0
    · simp only [bytePosAt, readerPos]; omega
    · have := (hlast h0).1
      simp only [bytePosAt, readerPos]; omega
  have hcount : 8 * r.bytePos.toNat - readerPos r = r.bitCount.toNat := by
    by_cases h0 : r.bitCount.toNat = 0
    · simp only [readerPos]; omega
    · have := (hlast h0).1
      simp only [readerPos]; omega
  have hbuf : r.bitBuf = (readerAt l (readerPos r)).bitBuf := by
    simp only [readerAt, hbyte, hcount]
    split
    · rename_i h0
      exact hzero h0
    · rename_i h0
      obtain ⟨b, hb, hval⟩ := Option.map_eq_some_iff.mp (hlast h0).2
      rw [hb]
      exact hval.symm
  have hpos : r.bytePos = (readerAt l (readerPos r)).bytePos := by simp [readerAt, hbyte]
  have hlow : r.bitCount = (readerAt l (readerPos r)).bitCount := by simp [readerAt, hbyte, hcount]
  exact (BitReader.mk.injEq _ _ _ _ _ _).mpr ⟨hpos, hbuf, hlow⟩

/-- The bits held are the stream bits from `bitpos` on. -/
def HoldsStream (l : Launch) (r : BitReader) : Prop :=
  ∀ i < r.bitCount.toNat, r.bitBuf.toNat.testBit i = streamBit l (readerPos r + i)

theorem holdsStream_of_readerInv {l : Launch} {r : BitReader} (h : ReaderInv l r) : HoldsStream l r := by
  intro i hi
  obtain ⟨-, hc, -, hlast⟩ := h
  obtain ⟨hpos, hmem⟩ := hlast (by omega)
  obtain ⟨b, hb, hbuf⟩ := Option.map_eq_some_iff.mp hmem
  have hbyte : (readerPos r + i) / 8 = r.bytePos.toNat - 1 := by simp only [readerPos]; omega
  have hbit : (readerPos r + i) % 8 = 8 - r.bitCount.toNat + i := by simp only [readerPos]; omega
  rw [← hbuf, toNat_byte_ushiftRight, Nat.testBit_div_two_pow, streamBit, hbyte, hb, hbit, Nat.add_comm]
  rfl

theorem holdsStream_pulledByte {l : Launch} {r : BitReader} {b : Byte} (hh : Held l r) (h : HoldsStream l r)
    (hc : r.bitCount.toNat < 56) (hin : r.bytePos.toNat < l.inLen.toNat)
    (hb : memRead l.inMem r.bytePos.toNat = some b) : HoldsStream l (pulledByte b r) := by
  intro i hi
  rw [pulledByte_bitCount b hc] at hi
  rw [pulledByte_bitBuf b hc hh.fits, Nat.mul_comm, Nat.testBit_two_pow_mul_add _ hh.fits,
    readerPos_pulledByte b hc hin]
  split
  · rename_i hlow
    exact h i hlow
  · rename_i hhigh
    have hpulled := hh.pulled
    have hbyte : (readerPos r + i) / 8 = r.bytePos.toNat := by simp only [readerPos]; omega
    have hbit : (readerPos r + i) % 8 = i - r.bitCount.toNat := by simp only [readerPos]; omega
    rw [streamBit, hbyte, hb, hbit]
    rfl

/-- The refill keeps the bits held stream bits. -/
theorem pullBytes_holdsStream {l : Launch} {n k : Nat} {r q : BitReader} (hn : n ≤ 32) (hh : Held l r)
    (h : HoldsStream l r) (hp : pullBytes l n k r = .ok q) : HoldsStream l q := by
  induction k generalizing r with
  | zero => cases hp; exact h
  | succ k ih =>
    by_cases hlt : r.bitCount.toNat < n
    · by_cases hin : l.inLen.toNat ≤ r.bytePos.toNat
      · simp [pullBytes, hlt, hin] at hp
      · cases hb : memRead l.inMem r.bytePos.toNat with
        | none => simp [pullBytes, hlt, hin, hb] at hp
        | some b =>
          have hin : r.bytePos.toNat < l.inLen.toNat := Nat.lt_of_not_le hin
          have hc : r.bitCount.toNat < 56 := by omega
          rw [pullBytes_succ l n k r hlt hin b hb] at hp
          exact ih (held_pulledByte hh hc hin hb) (holdsStream_pulledByte hh h hc hin hb) hp
    · rw [pullBytes_enough l n (k + 1) r (Nat.le_of_not_lt hlt)] at hp
      cases hp
      exact h

/-- With the input placed the refill stops only where the input has fewer than `n` bits left (R91). -/
theorem pullBytes_exhausted {l : Launch} {n k : Nat} {r : BitReader} {e : Stop} (hn : n ≤ 32) (hh : Held l r)
    (hplaced : InputPlaced l) (hp : pullBytes l n k r = .error e) :
    e = .raise .inputExhausted ∧ 8 * l.inLen.toNat < readerPos r + n := by
  induction k generalizing r with
  | zero => cases hp
  | succ k ih =>
    by_cases hlt : r.bitCount.toNat < n
    · by_cases hin : l.inLen.toNat ≤ r.bytePos.toNat
      · simp only [pullBytes, hlt, hin, if_true] at hp
        cases hp
        have := hh.pulled
        exact ⟨rfl, by simp only [readerPos]; omega⟩
      · have hin : r.bytePos.toNat < l.inLen.toNat := Nat.lt_of_not_le hin
        obtain ⟨b, hb⟩ := Option.isSome_iff_exists.mp (hplaced _ hin)
        have hc : r.bitCount.toNat < 56 := by omega
        rw [pullBytes_succ l n k r hlt hin b hb] at hp
        have hrest := ih (held_pulledByte hh hc hin hb) hp
        rwa [show readerPos _ = readerPos r from readerPos_pulledByte b hc hin] at hrest
    · rw [pullBytes_enough l n (k + 1) r (Nat.le_of_not_lt hlt)] at hp
      cases hp

/-! ### Stream bits -/

theorem natOfBits_append (a b : List Bool) : natOfBits (a ++ b) = natOfBits a + 2 ^ a.length * natOfBits b := by
  induction a with
  | nil => simp [natOfBits]
  | cons x a ih => rw [List.cons_append, natOfBits, natOfBits, ih, List.length_cons, Nat.pow_succ]; ring

theorem natOfBits_map_range (f : Nat → Bool) (n : Nat) :
    natOfBits ((List.range n).map f) = ((List.range n).map fun i => (f i).toNat * 2 ^ i).sum := by
  induction n with
  | zero => rfl
  | succ n ih =>
    simp [List.range_succ, natOfBits_append, ih, natOfBits, Nat.mul_comm]

theorem length_streamFrom (l : Launch) (pos : Nat) : (streamFrom l pos).length = 8 * l.inLen.toNat - pos := by
  simp [streamFrom]

theorem drop_streamFrom (l : Launch) (pos n : Nat) : (streamFrom l pos).drop n = streamFrom l (pos + n) := by
  refine List.ext_getElem (by simp [streamFrom]; omega) fun i h1 h2 => ?_
  simp [streamFrom, Nat.add_assoc]

/-- What READ returns is the number of the next stream bits (R94). -/
theorem natOfBits_take_streamFrom {l : Launch} {pos n : Nat} (h : pos + n ≤ 8 * l.inLen.toNat) :
    natOfBits ((streamFrom l pos).take n) = fieldAt l pos n := by
  rw [streamFrom, ← List.map_take, List.take_range, Nat.min_eq_left (by omega), natOfBits_map_range, fieldAt]

/-! ### READ and ALIGN -/

/-- READ takes the next stream bits, where the input has them (R91, R94). -/
theorem readBits_of_readable {l : Launch} {n : Nat} {r : BitReader} (hn : n ≤ 32) (hr : ReaderInv l r)
    (hplaced : InputPlaced l) (h : readerPos r + n ≤ 8 * l.inLen.toNat) :
    readBits l n r = .ok (fieldAt l (readerPos r) n, readerAt l (readerPos r + n)) := by
  have hh := held_of_readerInv hr
  cases hq : pullBytes l n n r with
  | error e =>
    have := (pullBytes_exhausted hn hh hplaced hq).2
    omega
  | ok q =>
    obtain ⟨-, hpos, -, hge⟩ := pullBytes_held hn hh (by have := hr.2.1; omega) hq
    have hbits := pullBytes_holdsStream hn hh (holdsStream_of_readerInv hr) hq
    have hread : readBits l n r = .ok (takeBits n q) := by simp only [readBits, hq]
    obtain ⟨hinv, hnext⟩ := readBits_readerInv hn hr hread
    have hval : q.bitBuf.toNat % 2 ^ n = fieldAt l (readerPos r) n := by
      rw [← natOfBits_fieldBits, fieldBits_eq_map_testBit, natOfBits_map_range, fieldAt, ← hpos]
      refine congrArg List.sum (List.map_congr_left fun i hi => ?_)
      have hi := List.mem_range.mp hi
      rw [hbits i (by omega)]
    have hreader : (takeBits n q).2 = readerAt l (readerPos r + n) := by rw [← hnext]; exact eq_readerAt hinv
    rw [hread, ← hval, ← hreader]
    rfl

/-- READ raises ERR_INPUT_EXHAUSTED, where the input has too few bits (R91). -/
theorem readBits_of_exhausted {l : Launch} {n : Nat} {r : BitReader} (hn : n ≤ 32) (hr : ReaderInv l r)
    (hplaced : InputPlaced l) (h : 8 * l.inLen.toNat < readerPos r + n) :
    readBits l n r = .error (.raise .inputExhausted) := by
  have hh := held_of_readerInv hr
  cases hread : readBits l n r with
  | ok x =>
    obtain ⟨hinv, hnext⟩ := readBits_readerInv hn hr (v := x.1) (r' := x.2) hread
    have := readerPos_le hinv
    omega
  | error e =>
    rcases readBits_error hread with rfl | rfl
    · rfl
    · unfold readBits at hread
      split at hread
      · cases hread
      · rename_i e hq
        obtain ⟨rfl, -⟩ := pullBytes_exhausted hn hh hplaced hq
        cases hread

/-- ALIGN drops the bits before the next byte boundary (R93). -/
theorem readerPos_alignReader {l : Launch} {r : BitReader} (h : ReaderInv l r) :
    readerPos (alignReader r) = readerPos r + (8 - readerPos r % 8) % 8 := by
  have hc : r.bitCount.toNat ≤ 7 := h.2.1
  have hcount := alignReader_bitCount r
  have hpulled := (held_of_readerInv h).pulled
  simp only [readerPos, alignReader_bytePos]
  omega

/-! ### Programs and the fetch -/

/-- The decoder's answer on the stream bits as an answer over the registers. -/
def onRegisters {α : Type} (l : Launch) (x : Except Reject (α × Nat)) : Res (α × BitReader) :=
  match x with
  | .ok (a, p) => .ok (a, readerAt l p)
  | .error e => .error (stopOf e)

/-- A program over the registers answers what it answers on the stream bits from `bitpos` on. -/
theorem runProg_eq_runBits {α : Type} {l : Launch} {p : BitProg α} {r : BitReader} (hp : Narrow p)
    (hr : ReaderInv l r) (hplaced : InputPlaced l) :
    runProg l p r = onRegisters l (p.runBits (readerPos r) (streamFrom l (readerPos r))) := by
  induction p generalizing r with
  | done a => exact congrArg (fun r => Except.ok (a, r)) (eq_readerAt hr)
  | reject e => rfl
  | read n k ih =>
    obtain ⟨hn, hk⟩ := hp
    simp only [runProg, BitProg.runBits, length_streamFrom]
    have hin := readerPos_le hr
    by_cases h : readerPos r + n ≤ 8 * l.inLen.toNat
    · have hread := readBits_of_readable hn hr hplaced h
      obtain ⟨hinv, hnext⟩ := readBits_readerInv hn hr hread
      rw [hread, if_pos (by omega), natOfBits_take_streamFrom h, drop_streamFrom]
      simp only [ih _ (hk _) hinv, hnext]
    · rw [readBits_of_exhausted hn hr hplaced (by omega), if_neg (by omega)]
      rfl
  | align k ih =>
    obtain ⟨hinv, -⟩ := alignReader_readerInv hr
    rw [runProg, BitProg.runBits, ih hp hinv, readerPos_alignReader hr, drop_streamFrom]

/-- Settles O13: the fetch runs the program that the decoder runs. -/
theorem fetchDecodesTheStream : Obligations.FetchDecodesTheStream := by
  intro s hr hplaced
  rw [fetch, runProg_eq_runBits (narrow_elementProg s.ctx) hr hplaced, bitpos_eq_readerPos]
  cases (elementProg s.ctx).runBits (readerPos s.reader) (streamFrom s.launch (readerPos s.reader)) <;> rfl

end Sys2Proof.Machine

/-! ## Literals and matches

What the symbols of the literal/length and distance alphabets do, by their number, and so in both their forms
(30_encoding R71, R72, R75, R76, R81; 45 R160 to R168; 60 R287). -/

namespace Sys2Proof.Machine

open Sys2Proof Sys2Proof.Abstract

/-! ### Faults, literals and the end of a block -/

/-- A raised fault is taken (60 R288). -/
theorem raises_settle (e : ErrCode) (s : State) : Raises e s (settle s (.error (.raise e))) :=
  ⟨takeFault e s, rfl, rfl, rfl⟩

theorem literalRuns_runLitlen {n : Nat} (h : n < 256) (s : State) :
    LiteralRuns (BitVec.ofNat 8 n) s (runLitlen n s) := by
  rw [runLitlen_literal h]
  refine ⟨fun hfull => ?_, fun hroom => ?_⟩
  · rw [outAppend_of_not_room hfull]
    exact raises_settle _ s
  · obtain ⟨t, ht⟩ := outAppend_of_room (BitVec.ofNat 8 n) hroom
    exact ⟨t, by rw [ht, settle_ok], outAppend_appended ht⟩

theorem afterBlock_eq_phaseAfterBlock (s : State) : afterBlock s = phaseAfterBlock s.block := by
  rcases BitVec.eq_zero_or_eq_one s.block.bfinal with h | h <;> simp [afterBlock, phaseAfterBlock, h]

theorem blockEnded_runLitlen (s : State) : BlockEnded s (runLitlen 256 s) := by
  rw [runLitlen_endOfBlock, BlockEnded, afterBlock_eq_phaseAfterBlock]
  rfl

/-! ### Operands -/

/-- An operand is `base` plus the field at `bitpos`, and the bit reader moves past it (R67, 40 R94). -/
theorem readOperand_of_readable {base e : Nat} {s : State} (he : e ≤ 32) (h : Readable s e) :
    readOperand base e s =
      .ok (base + fieldAt s.launch s.bitpos e, s.setReader (readerAt s.launch (s.bitpos + e))) := by
  obtain ⟨hr, hplaced, hin⟩ := h
  rw [readOperand, readBits_of_readable he hr hplaced hin]
  rfl

theorem readOperand_of_exhausted {base e : Nat} {s : State} (he : e ≤ 32) (h : Exhausted s e) :
    readOperand base e s = .error (.raise .inputExhausted) := by
  obtain ⟨hr, hplaced, hin⟩ := h
  rw [readOperand, readBits_of_exhausted he hr hplaced hin]

/-- A field READ has no bits above its width. -/
theorem fieldAt_lt (l : Launch) (pos n : Nat) : fieldAt l pos n < 2 ^ n := by
  have h := natOfBits_lt ((List.range n).map fun i => streamBit l (pos + i))
  rwa [natOfBits_map_range, List.length_map, List.length_range] at h

/-! ### The first half of a match -/

/-- Every length fits the pending length's 9 bits (R75). -/
theorem length_lt {k : Nat} (h : k < 29) : lbase.getD k 0 + 2 ^ lext.getD k 0 ≤ 512 := by
  have hrows : ∀ k < 29, lbase.getD k 0 + 2 ^ lext.getD k 0 ≤ 512 := by decide
  exact hrows k h

theorem lengthRuns_lengthSymbol {base e : Nat} (he : e ≤ 32) (hlen : base + 2 ^ e ≤ 512) (s : State) :
    LengthRuns base e s (lengthSymbol base e s) := by
  refine ⟨fun h => ?_, fun h => ?_⟩
  · rw [lengthSymbol, readOperand_of_exhausted he h]
    exact raises_settle _ s
  · rw [lengthSymbol, readOperand_of_readable he h]
    refine ⟨_, rfl, ?_, rfl, rfl⟩
    have hfield := fieldAt_lt s.launch s.bitpos e
    simp only [State.setMatchLen_matchLen, Option.map_some, BitVec.toNat_ofNat, Option.some.injEq]
    exact Nat.mod_eq_of_lt (by omega)

/-- Symbols 257 to 285, by the rows of R75. -/
theorem lengthRuns_runLitlen {k base e : Nat} (hbase : lbase[k]? = some base) (hext : lext[k]? = some e) (s : State) :
    LengthRuns base e s (runLitlen (257 + k) s) := by
  have hk : k < 29 := (List.getElem?_eq_some_iff.mp hbase).1
  have hb : lbase.getD k 0 = base := by rw [List.getD_eq_getElem?_getD, hbase]; rfl
  have he : lext.getD k 0 = e := by rw [List.getD_eq_getElem?_getD, hext]; rfl
  rw [runLitlen_length hk, hb, he]
  exact lengthRuns_lengthSymbol (he ▸ lext_le k) (hb ▸ he ▸ length_lt hk) s

/-! ### The copy of a match -/

/-- The byte that a copy reads first has been written. -/
theorem memRead_of_historyWritten {distance : Nat} {s : State} (h : HistoryWritten s) (h1 : 1 ≤ distance)
    (hd : distance ≤ s.out.outPos.toNat) : ∃ b, memRead s.out.outMem (s.out.outPos.toNat - distance) = some b :=
  Option.isSome_iff_exists.mp (h _ (by omega))

theorem historyWritten_outAppend {b : Byte} {s t : State} (h : HistoryWritten s) (ha : outAppend b s = .ok t) :
    HistoryWritten t := by
  obtain ⟨hbyte, hother, hpos, -⟩ := outAppend_appended ha
  intro a hlt
  by_cases heq : a = s.out.outPos.toNat
  · rw [heq, hbyte]; rfl
  · rw [hother a (by omega)]
    exact h a (by omega)

/-- One byte of a copy whose byte has been written. -/
theorem copyMatch_step {distance k : Nat} {b : Byte} {s s' : State}
    (hb : memRead s.out.outMem (s.out.outPos.toNat - distance) = some b) (ha : outAppend b s = .ok s') :
    copyMatch distance (k + 1) s = copyMatch distance k s' := by
  simp only [copyMatch, hb, ha]

theorem outAppend_launch {b : Byte} {s t : State} (h : outAppend b s = .ok t) : t.launch = s.launch := by
  obtain ⟨-, rfl⟩ := outAppend_ok h
  rfl

/-- A copy that does not fit raises ERR_SIZE_MISMATCH, after the bytes that do (45 R168). -/
theorem copyMatch_of_not_room {distance k : Nat} {s : State} (hw : HistoryWritten s) (h1 : 1 ≤ distance)
    (hd : distance ≤ s.out.outPos.toNat) (hk : k ≠ 0) (h : ¬ Room k s) :
    copyMatch distance k s = .error (.raise .sizeMismatch) := by
  induction k generalizing s with
  | zero => exact absurd rfl hk
  | succ k ih =>
    obtain ⟨b, hb⟩ := memRead_of_historyWritten hw h1 hd
    by_cases hroom : Room 1 s
    · obtain ⟨s', ha⟩ := outAppend_of_room b hroom
      have hpos := outAppend_outPos ha
      have hl := outAppend_launch ha
      unfold Room at h hroom
      rw [copyMatch_step hb ha]
      exact ih (historyWritten_outAppend hw ha) (by omega) (by omega) (by unfold Room; rw [hl]; omega)
    · simp only [copyMatch, hb, outAppend_of_not_room hroom]

/-- The byte that a copy repeats next stands one byte further, or is the byte just written. -/
theorem memRead_copySource {distance : Nat} {b : Byte} {s s' : State} (h1 : 1 ≤ distance)
    (hd : distance ≤ s.out.outPos.toNat) (hb : memRead s.out.outMem (s.out.outPos.toNat - distance) = some b)
    (ha : outAppend b s = .ok s') (j : Nat) :
    memRead s'.out.outMem (s'.out.outPos.toNat - distance + j % distance) =
      memRead s.out.outMem (s.out.outPos.toNat - distance + (j + 1) % distance) := by
  obtain ⟨hbyte, hother, hpos, -⟩ := outAppend_appended ha
  have hlt := Nat.mod_lt j h1
  rw [← Nat.mod_add_mod, hpos]
  by_cases hwrap : j % distance + 1 = distance
  · rw [hwrap, Nat.mod_self, Nat.add_zero (_ - distance), hb, ← hbyte]
    congr 1
    omega
  · rw [Nat.mod_eq_of_lt (show j % distance + 1 < distance by omega), hother _ (by omega)]
    congr 1
    omega

/-- A copy that fits repeats the last `distance` bytes (45 R164). -/
theorem copyMatch_of_room {distance k : Nat} {s : State} (hw : HistoryWritten s) (h1 : 1 ≤ distance)
    (hd : distance ≤ s.out.outPos.toNat) (h : Room k s) :
    ∃ t, copyMatch distance k s = .ok t ∧ Copied distance k s t := by
  induction k generalizing s with
  | zero => exact ⟨s, rfl, by simp, fun _ _ => rfl, rfl, [], rfl, rfl, by simp⟩
  | succ k ih =>
    obtain ⟨b, hb⟩ := memRead_of_historyWritten hw h1 hd
    unfold Room at h
    obtain ⟨s', ha⟩ := outAppend_of_room b (s := s) (by unfold Room; omega)
    obtain ⟨hbyte, hother, hpos, -⟩ := outAppend_appended ha
    have hadler : s'.adler = adlerStep s.adler b := by
      obtain ⟨-, rfl⟩ := outAppend_ok ha
      rfl
    obtain ⟨t, ht, hread, hsame, hcount, bytes, hlen, hsum, hbytes⟩ :=
      ih (historyWritten_outAppend hw ha) (by omega) (by unfold Room; rw [outAppend_launch ha]; omega)
    have hfirst : memRead t.out.outMem s.out.outPos.toNat = some b := (hsame _ (by omega)).trans hbyte
    have hnext (j : Nat) : s.out.outPos.toNat + (j + 1) = s'.out.outPos.toNat + j := by omega
    refine ⟨t, by rw [copyMatch_step hb ha, ht], fun j hj => ?_, fun a hout => ?_, by omega, b :: bytes,
      by simp [hlen], by rw [List.foldl_cons, ← hadler, hsum], fun j hj => ?_⟩
    · cases j with
      | zero => simpa using hfirst.trans hb.symm
      | succ j => rw [hnext, hread j (by omega), memRead_copySource h1 hd hb ha]
    · rw [hsame a (by omega)]
      exact hother a (by omega)
    · cases j with
      | zero => exact hfirst.symm
      | succ j => rw [List.getElem?_cons_succ, hbytes j (by omega), hnext]

/-! ### The second half of a match -/

/-- The state in which the copy of a match begins: the distance's extra bits are read, no length is pending. -/
def copyStart (e : Nat) (s : State) : State :=
  (s.setReader (readerAt s.launch (s.bitpos + e))).setMatchLen none

theorem distanceSymbol_of_readable {base e : Nat} {k : BitVec 9} {s : State} (he : e ≤ 32) (hk : s.matchLen = some k)
    (h : Readable s e) :
    distanceSymbol base e s = settle s (
      if s.out.outPos.toNat < base + fieldAt s.launch s.bitpos e then .error (.raise .distTooFar)
      else copyMatch (base + fieldAt s.launch s.bitpos e) k.toNat (copyStart e s)) := by
  simp only [distanceSymbol, hk, readOperand_of_readable he h]
  rfl

theorem distanceSymbol_of_exhausted {base e : Nat} {k : BitVec 9} {s : State} (he : e ≤ 32) (hk : s.matchLen = some k)
    (h : Exhausted s e) : distanceSymbol base e s = settle s (.error (.raise .inputExhausted)) := by
  simp only [distanceSymbol, hk, readOperand_of_exhausted he h]

/-- A copy that starts after the extra bits completes the match (45 R163). -/
theorem matchDone_of_copied {base e k : Nat} {s t : State}
    (ht : copyMatch (base + fieldAt s.launch s.bitpos e) k (copyStart e s) = .ok t)
    (hc : Copied (base + fieldAt s.launch s.bitpos e) k (copyStart e s) t) : MatchDone base e k s (.next t) := by
  have hframe := copyMatch_frame ht
  refine ⟨t, rfl, hc, ?_, ?_, ?_⟩ <;> rw [hframe] <;> rfl

theorem distanceRuns_distanceSymbol {base e : Nat} (he : e ≤ 32) (hbase : 1 ≤ base) (s : State) :
    DistanceRuns base e s (distanceSymbol base e s) := by
  intro k hk
  refine ⟨fun h => ?_, fun h hfar => ?_, fun h hnear hw hpos hfull => ?_, fun h hnear hw hroom => ?_⟩
  · rw [distanceSymbol_of_exhausted he hk h]
    exact raises_settle _ s
  · rw [distanceSymbol_of_readable he hk h, if_pos hfar]
    exact raises_settle _ s
  · have hpos : k.toNat ≠ 0 := fun h0 => hpos (BitVec.eq_of_toNat_eq h0)
    rw [distanceSymbol_of_readable he hk h, if_neg (Nat.not_lt.mpr hnear),
      copyMatch_of_not_room (s := copyStart e s) hw (by omega) hnear hpos hfull]
    exact raises_settle _ s
  · obtain ⟨t, ht, hc⟩ := copyMatch_of_room (s := copyStart e s) hw (by omega) hnear hroom
    rw [distanceSymbol_of_readable he hk h, if_neg (Nat.not_lt.mpr hnear), ht, settle_ok]
    exact matchDone_of_copied ht hc

/-- No distance is 0 (R76). -/
theorem one_le_dbase {k : Nat} (h : k < 30) : 1 ≤ dbase.getD k 0 := by
  have hrows : ∀ k < 30, 1 ≤ dbase.getD k 0 := by decide
  exact hrows k h

/-- Symbols 0 to 29, by the rows of R76. -/
theorem distanceRuns_runDist {k base e : Nat} (hbase : dbase[k]? = some base) (hext : dext[k]? = some e) (s : State) :
    DistanceRuns base e s (runDist k s) := by
  have hk : k < 30 := (List.getElem?_eq_some_iff.mp hbase).1
  have hb : dbase.getD k 0 = base := by rw [List.getD_eq_getElem?_getD, hbase]; rfl
  have he : dext.getD k 0 = e := by rw [List.getD_eq_getElem?_getD, hext]; rfl
  rw [runDist_distance hk, hb, he]
  exact distanceRuns_distanceSymbol (he ▸ dext_le k) (hb ▸ one_le_dbase hk) s

/-! ### The symbols and their fixed forms -/

/-- Settles O35: a length symbol does what the symbol of its number does. -/
theorem lengthSymbolsReadTheLength : Obligations.LengthSymbolsReadTheLength := by
  intro k i base e s hi hbase hext
  have hlength : litlenNumber i = some (257 + k) := by
    have hk : k < 29 := (List.getElem?_eq_some_iff.mp hi).1
    interval_cases k <;> cases hi <;> rfl
  rw [exec_eq_runLitlen hlength]
  exact lengthRuns_runLitlen hbase hext s

/-- Settles O36: a distance symbol does what the symbol of its number does. -/
theorem distanceSymbolsCopyTheMatch : Obligations.DistanceSymbolsCopyTheMatch := by
  intro k i base e s hi hbase hext
  have hdist : distNumber i = some k := by
    have hk : k < 30 := (List.getElem?_eq_some_iff.mp hi).1
    interval_cases k <;> cases hi <;> rfl
  rw [exec_eq_runDist hdist]
  exact distanceRuns_runDist hbase hext s

/-- Settles O38: the rows' symbols are below 256. -/
theorem fixedLiteralRows : Obligations.FixedLiteralRows := fun s =>
  ⟨fun x => literalRuns_runLitlen (by omega) s, fun x => literalRuns_runLitlen (by omega) s,
    fun x => literalRuns_runLitlen (by omega) s, fun x => literalRuns_runLitlen (by omega) s,
    fun x => literalRuns_runLitlen (by omega) s, fun x => literalRuns_runLitlen (by omega) s⟩

/-- Settles O39: each row runs the symbol `first_symbol + x`, and 257 is the first length's. -/
theorem fixedEndAndLengthRows : Obligations.FixedEndAndLengthRows := by
  intro s
  refine ⟨blockEnded_runLitlen s, fun x base e hx hbase hext => ?_, fun x base e hbase hext => ?_,
    fun x base e hbase hext => ?_, fun x hx => ?_⟩
  · have hpos : x.toNat ≠ 0 := fun h0 => hx (BitVec.eq_of_toNat_eq h0)
    have h := lengthRuns_runLitlen hbase hext s
    rwa [show 257 + (x.toNat - 1) = 256 + x.toNat by omega] at h
  · have h := lengthRuns_runLitlen hbase hext s
    rwa [← Nat.add_assoc] at h
  · have h := lengthRuns_runLitlen hbase hext s
    rwa [← Nat.add_assoc] at h
  · have hres : 280 + x.toNat = 286 ∨ 280 + x.toNat = 287 := by omega
    have hrun : exec (.fixedLl280To287 x) s = settle s (.error (.raise .litlenSymbol)) := runLitlen_reserved hres s
    rw [hrun]
    exact raises_settle _ s

/-- Settles O40: the row runs the distance symbol `x`. -/
theorem fixedDistanceRow : Obligations.FixedDistanceRow := by
  intro s x
  refine ⟨fun base e hbase hext => distanceRuns_runDist hbase hext s, fun hx => ?_⟩
  have hrun : exec (.fixedD0To31 x) s = settle s (.error (.raise .distSymbol)) :=
    runDist_reserved (n := x.toNat) (by omega) s
  rw [hrun]
  exact raises_settle _ s

end Sys2Proof.Machine

/-! ## READ and ALIGN against the abstract view

The statements of 40 R91 to R94 for the registers of a state. -/

namespace Sys2Proof.Machine

open Sys2Proof Sys2Proof.Abstract

/-- Taking no bits answers 0 and leaves the registers, whatever they hold (R92). -/
theorem takeBits_zero (r : BitReader) : takeBits 0 r = (0, r) := by
  simp [takeBits, Nat.mod_one]

/-- ALIGN ends at the byte boundary that R94 gives as a function of `bitpos`. -/
theorem readerPos_alignReader_eq_alignedPos {l : Launch} {r : BitReader} (h : ReaderInv l r) :
    readerPos (alignReader r) = alignedPos (readerPos r) := by
  rw [readerPos_alignReader h, alignedPos, bytePosAt]
  omega

/-- Settles O10: under I-BR the registers and the abstract view agree, and READ keeps them so. -/
theorem readFollowsTheStream : Obligations.ReadFollowsTheStream := by
  intro s n hn
  rw [bitpos_eq_readerPos]
  constructor
  · rintro ⟨hinv, hplaced, hleft⟩
    exact readBits_of_readable hn hinv hplaced hleft
  · rintro ⟨hinv, hplaced, hshort⟩
    exact readBits_of_exhausted hn hinv hplaced hshort

/-- Settles O12: ALIGN keeps I-BR, and under I-BR the registers are those of their bit position. -/
theorem alignGoesToTheByteBoundary : Obligations.AlignGoesToTheByteBoundary := by
  intro s hr
  obtain ⟨haligned, -⟩ := alignReader_readerInv hr
  rw [bitpos_eq_readerPos, ← readerPos_alignReader_eq_alignedPos hr]
  exact eq_readerAt haligned

/-- Settles O11: the refill has nothing to fetch and there are no bits to take, so no invariant is needed. -/
theorem readZeroDoesNothing : Obligations.ReadZeroDoesNothing := by
  intro l r
  have hrefill : pullBytes l 0 0 r = .ok r := pullBytes_enough l 0 0 r (Nat.zero_le _)
  rw [readBits, hrefill, ← takeBits_zero r]

end Sys2Proof.Machine

/-! ## BUILD as the counting sort

Where BUILD places each symbol, the canonical code that stands for the place, and the lengths BUILD refuses (41 R101 to
R107; 42 R111, R113). -/

namespace Sys2Proof.Machine

open Sys2Proof Sys2Proof.Abstract

/-! ### Counts, offsets and first codes -/

theorem countOf_eq_count (L : List Nat) {l : Nat} (h1 : 1 ≤ l) (h15 : l ≤ 15) : countOf L l = L.count l :=
  if_pos ⟨h1, h15⟩

theorem countOf_cons (L : List Nat) {a : Nat} (h15 : a ≤ 15) (l : Nat) :
    countOf (a :: L) l = countOf L l + if a ≠ 0 ∧ a = l then 1 else 0 := by
  simp only [countOf, List.count_cons, beq_iff_eq]
  split_ifs <;> omega

theorem countOf_concat (L : List Nat) {a : Nat} (h15 : a ≤ 15) (l : Nat) :
    countOf (L ++ [a]) l = countOf L l + if a ≠ 0 ∧ a = l then 1 else 0 := by
  rw [← countOf_cons L h15, countOf, (List.perm_append_singleton a L).count_eq l, countOf]

theorem offsetOf_succ (L : List Nat) (l : Nat) : offsetOf L (l + 1) = offsetOf L l + countOf L l := by
  cases l <;> rfl

theorem offsetOf_le_offsetOf (L : List Nat) {l m : Nat} (h : l ≤ m) : offsetOf L l ≤ offsetOf L m :=
  monotone_nat_of_le_succ (fun l => by rw [offsetOf_succ]; exact Nat.le_add_right _ _) h

theorem firstCode_succ (L : List Nat) (l : Nat) : firstCode L (l + 1) = 2 * (firstCode L l + countOf L l) := by
  cases l <;> rfl

/-- First codes at least double with each length. -/
theorem firstCode_mul_two_pow_le (L : List Nat) (l k : Nat) : firstCode L l * 2 ^ k ≤ firstCode L (l + k) := by
  induction k with
  | zero => simp
  | succ k ih =>
    calc firstCode L l * 2 ^ (k + 1) = 2 * (firstCode L l * 2 ^ k) := by ring
      _ ≤ 2 * (firstCode L (l + k) + countOf L (l + k)) := by omega
      _ = firstCode L (l + (k + 1)) := (firstCode_succ L (l + k)).symm

/-- What one more length of `a` bits adds to the first code of length `l`. -/
theorem firstCode_cons (L : List Nat) {a : Nat} (h15 : a ≤ 15) (l : Nat) :
    firstCode (a :: L) l = firstCode L l + if a ≠ 0 ∧ a < l then 2 ^ (l - a) else 0 := by
  induction l with
  | zero => simp [firstCode]
  | succ l ih =>
    rw [firstCode_succ, firstCode_succ, ih, countOf_cons L h15]
    by_cases h0 : a = 0
    · simp [h0]
    rcases Nat.lt_trichotomy a l with h | rfl | h
    · have hpow : 2 ^ (l + 1 - a) = 2 * 2 ^ (l - a) := by rw [Nat.succ_sub h.le, Nat.pow_succ']
      rw [if_pos ⟨h0, h⟩, if_neg fun he => h.ne he.2, if_pos ⟨h0, by omega⟩, hpow]
      ring
    · simp [h0]
      ring
    · rw [if_neg (by omega), if_neg (by omega), if_neg (by omega)]
      ring

/-- The Kraft sum is where the codes of 15 bits end: half of what R103 would give for a length 16. -/
theorem firstCode_sixteen {L : List Nat} (h : ∀ x ∈ L, x ≤ 15) : firstCode L 16 = 2 * kraftSum L := by
  induction L with
  | nil => rfl
  | cons a L ih =>
    obtain ⟨ha, hL⟩ := List.forall_mem_cons.mp h
    rw [firstCode_cons L ha, ih hL]
    by_cases h0 : a = 0
    · simp [kraftSum, h0]
    · have hsum : kraftSum (a :: L) = 2 ^ (15 - a) + kraftSum L := by simp [kraftSum, h0]
      have hpow : 2 ^ (16 - a) = 2 * 2 ^ (15 - a) := by rw [Nat.succ_sub ha, Nat.pow_succ']
      rw [if_pos ⟨h0, by omega⟩, hsum, hpow]
      ring

/-! ### The places of the symbols -/

theorem length_flatMap_symbolsOfLength (L : List Nat) {l : Nat} (h15 : l ≤ 15) :
    ((List.range' 1 l).flatMap (symbolsOfLength L)).length = offsetOf L (l + 1) := by
  induction l with
  | zero => rfl
  | succ l ih =>
    rw [List.range'_1_concat, List.flatMap_append, List.length_append, ih (by omega), offsetOf_succ L (l + 1),
      List.flatMap_singleton, length_symbolsOfLength, countOf_eq_count L (by omega) h15, Nat.add_comm 1 l]

theorem length_sortedSymbols_eq_offsetOf (L : List Nat) : (sortedSymbols L).length = offsetOf L 16 :=
  length_flatMap_symbolsOfLength L le_rfl

/-- The symbols of one length stand together, from the offset of that length on. -/
theorem getElem?_sortedSymbols {L : List Nat} {l r : Nat} (h1 : 1 ≤ l) (h15 : l ≤ 15) (hr : r < L.count l) :
    (sortedSymbols L)[offsetOf L l + r]? = (symbolsOfLength L l)[r]? := by
  obtain ⟨m, rfl⟩ := Nat.exists_eq_add_of_le' h1
  have hsplit : List.range' 1 15 = List.range' 1 m ++ (m + 1) :: List.range' (m + 1 + 1) (14 - m) := by
    have hlen : 15 = m + (14 - m + 1) := by omega
    rw [← List.range'_succ, Nat.add_comm m 1, List.range'_append_1, ← hlen]
  rw [sortedSymbols, hsplit, List.flatMap_append, List.flatMap_cons,
    ← length_flatMap_symbolsOfLength L (show m ≤ 15 by omega), List.getElem?_append_right (Nat.le_add_right _ _),
    Nat.add_sub_cancel_left, List.getElem?_append_left (by rwa [length_symbolsOfLength])]

/-- A symbol is preceded by the smaller symbols of its length. -/
theorem getElem?_symbolsOfLength {L : List Nat} {s l : Nat} (h : L[s]? = some l) :
    (symbolsOfLength L l)[(L.take s).count l]? = some s := by
  obtain ⟨hs, hget⟩ := List.getElem?_eq_some_iff.mp h
  have hsplit : L = L.take s ++ l :: L.drop (s + 1) := by
    rw [← hget, List.getElem_cons_drop, List.take_append_drop]
  have hfront : (symbolsFrom 0 (L.take s) l).length = (L.take s).count l := length_symbolsOfLength _ _
  rw [symbolsOfLength_eq_symbolsFrom]
  conv_lhs => rw [hsplit]
  rw [symbolsFrom_append, ← hsplit, ← hfront, List.getElem?_append_right le_rfl, Nat.sub_self, symbolsFrom_cons]
  simp [hs.le]

theorem count_take_lt {L : List Nat} {s l : Nat} (h : L[s]? = some l) : (L.take s).count l < L.count l := by
  have hplace := (List.getElem?_eq_some_iff.mp (getElem?_symbolsOfLength h)).1
  rwa [length_symbolsOfLength] at hplace

/-- The place BUILD gives a symbol: after all shorter codes and the smaller symbols of its length (R101). -/
def slotOf (L : List Nat) (s : Nat) : Nat :=
  offsetOf L (L.getD s 0) + (L.take s).count (L.getD s 0)

theorem slotOf_eq {L : List Nat} {s l : Nat} (h : L[s]? = some l) :
    slotOf L s = offsetOf L l + (L.take s).count l := by
  rw [slotOf, List.getD_eq_getElem?_getD, h, Option.getD_some]

theorem canonicalCode_eq {L : List Nat} {s l : Nat} (h : L[s]? = some l) :
    canonicalCode L s = firstCode L l + (L.take s).count l := by
  rw [canonicalCode, List.getD_eq_getElem?_getD, h, Option.getD_some]

/-- A used symbol stands in its place. -/
theorem getElem?_sortedSymbols_slotOf {L : List Nat} {s l : Nat} (h : L[s]? = some l) (h1 : 1 ≤ l) (h15 : l ≤ 15) :
    (sortedSymbols L)[slotOf L s]? = some s := by
  rw [slotOf_eq h, getElem?_sortedSymbols h1 h15 (count_take_lt h), getElem?_symbolsOfLength h]

theorem mem_sortedSymbols {L : List Nat} {s : Nat} :
    s ∈ sortedSymbols L ↔ ∃ l, L[s]? = some l ∧ 1 ≤ l ∧ l ≤ 15 := by
  simp only [sortedSymbols, List.mem_flatMap, List.mem_range'_1, mem_symbolsOfLength]
  exact ⟨fun ⟨l, hl, h⟩ => ⟨l, h, hl.1, by omega⟩, fun ⟨l, h, h1, h15⟩ => ⟨l, ⟨h1, by omega⟩, h⟩⟩

/-- What stands at a place is the used symbol whose place it is. -/
theorem slotOf_of_getElem? {L : List Nat} {p s : Nat} (h : (sortedSymbols L)[p]? = some s) :
    slotOf L s = p ∧ ∃ l, L[s]? = some l ∧ 1 ≤ l ∧ l ≤ 15 := by
  obtain ⟨l, hs, h1, h15⟩ := mem_sortedSymbols.mp (List.mem_of_getElem? h)
  obtain ⟨hp, hget⟩ := List.getElem?_eq_some_iff.mp h
  obtain ⟨hq, hget'⟩ := List.getElem?_eq_some_iff.mp (getElem?_sortedSymbols_slotOf hs h1 h15)
  exact ⟨(nodup_sortedSymbols L).getElem_inj_iff.mp (hget'.trans hget.symm), l, hs, h1, h15⟩

theorem slotOf_ne_slotOf {L : List Nat} {s t l m : Nat} (hs : L[s]? = some l) (hl1 : 1 ≤ l) (hl15 : l ≤ 15)
    (ht : L[t]? = some m) (hm1 : 1 ≤ m) (hm15 : m ≤ 15) (hne : s ≠ t) : slotOf L s ≠ slotOf L t := fun heq => by
  have hstands := getElem?_sortedSymbols_slotOf hs hl1 hl15
  rw [heq, getElem?_sortedSymbols_slotOf ht hm1 hm15] at hstands
  exact hne (Option.some.inj hstands).symm

theorem slotOf_lt {L : List Nat} {s l : Nat} (hs : L[s]? = some l) (h1 : 1 ≤ l) (h15 : l ≤ 15) :
    slotOf L s < offsetOf L 16 := by
  rw [← length_sortedSymbols_eq_offsetOf]
  exact (List.getElem?_eq_some_iff.mp (getElem?_sortedSymbols_slotOf hs h1 h15)).1

/-! ### The table -/

theorem lengthCount_tableOf_eq_countOf (w : Nat) {L : List Nat} (hL : L.length ≤ 320) {l : Nat} (h15 : l ≤ 15) :
    lengthCount (tableOf w L) l = countOf L l := by
  by_cases h1 : 1 ≤ l
  · rw [lengthCount_tableOf w (by omega) h1 h15, countOf_eq_count L h1 h15]
  · obtain rfl : l = 0 := by omega
    rfl

theorem symbols_tableOf (w : Nat) (L : List Nat) :
    (tableOf w L).symbols = (sortedSymbols L).map (BitVec.ofNat w) := rfl

/-- `w` bits hold every symbol. -/
theorem toNat_ofNat_symbol {w : Nat} {L : List Nat} (hw : L.length ≤ 2 ^ w) {s l : Nat} (h : L[s]? = some l) :
    (BitVec.ofNat w s).toNat = s := by
  obtain ⟨hs, -⟩ := List.getElem?_eq_some_iff.mp h
  rw [BitVec.toNat_ofNat, Nat.mod_eq_of_lt (by omega)]

theorem map_toNat_symbols_tableOf {w : Nat} {L : List Nat} (hw : L.length ≤ 2 ^ w) :
    (tableOf w L).symbols.map BitVec.toNat = sortedSymbols L := by
  rw [symbols_tableOf, List.map_map]
  refine (List.map_congr_left fun s hs => ?_).trans (List.map_id _)
  obtain ⟨l, h, -⟩ := mem_sortedSymbols.mp hs
  exact toNat_ofNat_symbol hw h

/-- The search for a place ends at the length whose symbols it belongs to (R103). -/
theorem codeAtPosition_tableOf (w : Nat) {L : List Nat} (hL : L.length ≤ 320) {l r j k : Nat} (hjl : j ≤ l)
    (hlk : l < j + k) (h15 : l ≤ 15) (hr : r < countOf L l) :
    codeAtPosition (tableOf w L) (offsetOf L l + r) k j (firstCode L j) (offsetOf L j) =
      some (l, firstCode L l + r) := by
  induction k generalizing j with
  | zero => omega
  | succ k ih =>
    rw [codeAtPosition, lengthCount_tableOf_eq_countOf w hL (hjl.trans h15), ← offsetOf_succ, ← firstCode_succ]
    rcases hjl.eq_or_lt with rfl | hlt
    · rw [if_pos (by rw [offsetOf_succ]; omega), Nat.add_sub_cancel_left]
    · have hle : offsetOf L (j + 1) ≤ offsetOf L l := offsetOf_le_offsetOf L hlt
      rw [if_neg (by omega), ih hlt (by omega)]

/-- The table gives each used symbol its canonical code (R103). -/
theorem codeOf_tableOf {w : Nat} {L : List Nat} (hw : L.length ≤ 2 ^ w) (hL : L.length ≤ 320) {s l : Nat}
    (h : L[s]? = some l) (h1 : 1 ≤ l) (h15 : l ≤ 15) :
    codeOf (tableOf w L) (BitVec.ofNat w s) = some (l, canonicalCode L s) := by
  obtain ⟨-, -, -, -, hnd⟩ := tableInv_tableOf le_rfl hw (show L.length < 512 by omega)
  have hplace : (tableOf w L).symbols[slotOf L s]? = some (BitVec.ofNat w s) := by
    rw [symbols_tableOf, List.getElem?_map, getElem?_sortedSymbols_slotOf h h1 h15, Option.map_some]
  have hr : (L.take s).count l < countOf L l := by rw [countOf_eq_count L h1 h15]; exact count_take_lt h
  rw [codeOf_of_getElem? hnd hplace, slotOf_eq h, canonicalCode_eq h]
  exact codeAtPosition_tableOf w hL h1 (by omega) h15 hr

/-- Settles O4: the table gives the symbol its canonical code, and DECODE inverts the table's codes. -/
theorem canonicalCodeDecodes : Obligations.CanonicalCodeDecodes := by
  intro w L s l hw hL hmax hs h0 hfits
  have h15 : l ≤ 15 := hmax l (List.mem_of_getElem? hs)
  have hcode := codeOf_tableOf hw hL hs (Nat.one_le_iff_ne_zero.mpr h0) h15
  exact ⟨hcode, fun pos rest => runBits_decodeProg_codeWord hcode hfits pos rest⟩

/-! ### When BUILD fails -/

/-- CHECK_SUBSCRIPTION from length `l` on, where `left` words of `l - 1` bits are free, passes exactly when the codes up
to the last length it checks fit (R104). -/
theorem notOverSubscribed_iff (w : Nat) {L : List Nat} (hL : L.length ≤ 320) {k l left : Nat} (hlk : l + k ≤ 16)
    (hleft : firstCode L l + 2 * left = 2 ^ l) :
    notOverSubscribed (tableOf w L) k l left = true ↔ firstCode L (l + k) ≤ 2 ^ (l + k) := by
  induction k generalizing l left with
  | zero => simp only [notOverSubscribed, Nat.add_zero, true_iff]; omega
  | succ k ih =>
    have hnext := firstCode_succ L l
    have hpow : 2 ^ (l + 1) = 2 * 2 ^ l := Nat.pow_succ'
    rw [notOverSubscribed, lengthCount_tableOf_eq_countOf w hL (by omega), ← Nat.add_assoc, Nat.add_right_comm]
    split
    · rename_i hover
      have hexceeds : 2 ^ (l + 1 + k) < firstCode L (l + 1 + k) :=
        calc 2 ^ (l + 1 + k) = 2 ^ (l + 1) * 2 ^ k := Nat.pow_add _ _ _
          _ < firstCode L (l + 1) * 2 ^ k := Nat.mul_lt_mul_of_pos_right (by omega) (Nat.two_pow_pos k)
          _ ≤ firstCode L (l + 1 + k) := firstCode_mul_two_pow_le L (l + 1) k
      simpa using hexceeds
    · rename_i hfits
      exact ih (by omega) (by omega)

/-- CHECK_SUBSCRIPTION is the Kraft inequality. -/
theorem notOverSubscribed_iff_kraftSum_le (w : Nat) {L : List Nat} (hL : L.length ≤ 320) (hmax : ∀ x ∈ L, x ≤ 15) :
    notOverSubscribed (tableOf w L) 15 1 1 = true ↔ kraftSum L ≤ 2 ^ 15 := by
  rw [notOverSubscribed_iff w hL (by decide) rfl, firstCode_sixteen hmax]
  omega

/-- Settles O8: a length above 15 fails first; with none the strict check is the Kraft inequality. -/
theorem buildFailsExactlyWhenOverSubscribed : Obligations.BuildFailsExactlyWhenOverSubscribed := by
  intro w strict L hL
  unfold buildTable
  by_cases hlong : ∃ x ∈ L, 15 < x
  · rw [if_pos (by simpa using hlong)]
    simp [hlong]
  · have hmax : ∀ x ∈ L, x ≤ 15 := fun x hx => Nat.le_of_not_lt fun h => hlong ⟨x, hx, h⟩
    have hcheck : notOverSubscribed (tableOf w L) 15 1 1 = false ↔ 2 ^ 15 < kraftSum L := by
      rw [← Bool.not_eq_true, notOverSubscribed_iff_kraftSum_le w hL hmax, Nat.not_le]
    rw [if_neg (by simpa using hmax)]
    simp [hlong, hcheck]

/-! ### The placing loop -/

/-- The scratch of R101's placing loop after the first `n` symbols. -/
def placingAfter (L : List Nat) (n : Nat) : Placing :=
  (L.take n).zipIdx.foldl (fun P p => P.put p.1 p.2)
    { offsets := (List.range 17).map (offsetOf L)
      symbols := List.replicate (offsetOf L 16) 0 }

theorem countingSort_eq_placingAfter (L : List Nat) : countingSort L = (placingAfter L L.length).symbols := by
  rw [placingAfter, List.take_length]
  rfl

theorem placingAfter_succ {L : List Nat} {n l : Nat} (h : L[n]? = some l) :
    placingAfter L (n + 1) = (placingAfter L n).put l n := by
  obtain ⟨hn, -⟩ := List.getElem?_eq_some_iff.mp h
  simp [placingAfter, List.take_add_one, h, List.zipIdx_append, hn.le]

/-- The loop's invariant: each length's offset is past its symbols placed so far, and these stand in their places. -/
structure PlacedUpTo (L : List Nat) (n : Nat) (P : Placing) : Prop where
  offsets : P.offsets = (List.range 17).map fun l => offsetOf L l + countOf (L.take n) l
  room : P.symbols.length = offsetOf L 16
  placed : ∀ s < n, ∀ l, L[s]? = some l → l ≠ 0 → P.symbols[slotOf L s]? = some s

theorem take_succ_eq_concat {L : List Nat} {n l : Nat} (h : L[n]? = some l) : L.take (n + 1) = L.take n ++ [l] := by
  rw [List.take_add_one, h]
  rfl

/-- An unused symbol is not placed. -/
theorem placedUpTo_put_zero {L : List Nat} {n : Nat} (h : L[n]? = some 0) {P : Placing} (hP : PlacedUpTo L n P) :
    PlacedUpTo L (n + 1) (P.put 0 n) := by
  obtain ⟨hoff, hroom, hplaced⟩ := hP
  rw [Placing.put, if_pos rfl]
  refine ⟨by simp [hoff, take_succ_eq_concat h, countOf_concat], hroom, fun s hs m hm hne => hplaced s ?_ m hm hne⟩
  have hother : s ≠ n := by rintro rfl; exact hne (Option.some.inj (hm.symm.trans h))
  omega

/-- A used symbol is placed, and the offset of its length passes it. -/
theorem placedUpTo_put_used {L : List Nat} (hmax : ∀ x ∈ L, x ≤ 15) {n l : Nat} (h : L[n]? = some l) (h1 : 1 ≤ l)
    {P : Placing} (hP : PlacedUpTo L n P) : PlacedUpTo L (n + 1) (P.put l n) := by
  obtain ⟨hoff, hroom, hplaced⟩ := hP
  have h15 : l ≤ 15 := hmax l (List.mem_of_getElem? h)
  have hslot : P.offsets.getD l 0 = slotOf L n := by
    rw [hoff, slotOf_eq h, ← countOf_eq_count _ h1 h15]
    simp [show l < 17 by omega]
  rw [Placing.put, if_neg (by omega), hslot]
  refine ⟨List.ext_getElem (by simp [hoff]) fun i _ _ => ?_, by rw [List.length_set, hroom], fun s hs m hm hne => ?_⟩
  · simp only [hoff, take_succ_eq_concat h, countOf_concat _ h15, List.getElem_set, List.getElem_map,
      List.getElem_range]
    by_cases hil : l = i
    · rw [if_pos hil, if_pos ⟨by omega, hil⟩, slotOf_eq h, ← countOf_eq_count _ h1 h15, hil, Nat.add_assoc]
    · rw [if_neg hil, if_neg fun hi => hil hi.2, Nat.add_zero]
  · rw [List.getElem?_set]
    rcases Nat.lt_succ_iff_lt_or_eq.mp hs with hlt | rfl
    · have hapart := slotOf_ne_slotOf h h1 h15 hm (Nat.one_le_iff_ne_zero.mpr hne)
        (hmax m (List.mem_of_getElem? hm)) hlt.ne'
      rw [if_neg hapart]
      exact hplaced s hlt m hm hne
    · rw [if_pos rfl, if_pos (by rw [hroom]; exact slotOf_lt h h1 h15)]

theorem placedUpTo_placingAfter {L : List Nat} (hmax : ∀ x ∈ L, x ≤ 15) {n : Nat} (hn : n ≤ L.length) :
    PlacedUpTo L n (placingAfter L n) := by
  induction n with
  | zero =>
    refine ⟨?_, List.length_replicate, fun s hs => absurd hs (Nat.not_lt_zero s)⟩
    simp [placingAfter, countOf]
  | succ n ih =>
    obtain ⟨l, hget⟩ : ∃ l, L[n]? = some l := ⟨_, List.getElem?_eq_getElem (show n < L.length by omega)⟩
    rw [placingAfter_succ hget]
    have hbefore := ih (by omega)
    cases l with
    | zero => exact placedUpTo_put_zero hget hbefore
    | succ l => exact placedUpTo_put_used hmax hget (Nat.succ_pos l) hbefore

/-- R101's placing loop leaves the used symbols sorted by length and number. -/
theorem countingSort_eq_sortedSymbols {L : List Nat} (hmax : ∀ x ∈ L, x ≤ 15) : countingSort L = sortedSymbols L := by
  obtain ⟨-, hroom, hplaced⟩ := placedUpTo_placingAfter hmax le_rfl
  rw [← countingSort_eq_placingAfter] at hroom hplaced
  rw [← length_sortedSymbols_eq_offsetOf] at hroom
  refine List.ext_getElem hroom fun p hp hp' => ?_
  obtain ⟨hslot, l, hs, h1, -⟩ := slotOf_of_getElem? (List.getElem?_eq_getElem hp')
  have hlt := (List.getElem?_eq_some_iff.mp hs).1
  have hput := hplaced _ hlt l hs (by omega)
  rw [hslot] at hput
  exact (List.getElem?_eq_some_iff.mp hput).2

theorem buildTable_some {w : Nat} {strict : Bool} {L : List Nat} {T : HuffTable w}
    (h : buildTable w strict L = some T) : T = tableOf w L ∧ ∀ x ∈ L, x ≤ 15 :=
  build_ok (strict := strict) (by rw [build, h])

/-- Settles O7: the table's counts are those of the lengths, and the placing loop leaves its symbols. -/
theorem buildIsCountingSort : Obligations.BuildIsCountingSort := by
  intro w strict L T hw hL hT
  obtain ⟨rfl, hmax⟩ := buildTable_some hT
  refine ⟨fun l hl => lengthCount_tableOf_eq_countOf w hL hl, ?_, ?_⟩
  · rw [nsym_tableOf w (by omega), length_sortedSymbols_eq_offsetOf]
  · rw [map_toNat_symbols_tableOf hw, countingSort_eq_sortedSymbols hmax]

/-! ### DECODE on any table that BUILD leaves -/

/-- What DECODE answers is a used symbol, read in as many bits as its length (R107). -/
theorem length_of_runBits_ok {w : Nat} {L : List Nat} (hw : L.length ≤ 2 ^ w) (hL : L.length ≤ 320) {pos p : Nat}
    {bits : List Bool} {sym : BitVec w} (h : (decodeProg (tableOf w L)).runBits pos bits = .ok (sym, p)) :
    ∃ l, L[sym.toNat]? = some l ∧ 1 ≤ l ∧ l ≤ 15 ∧ p = pos + l := by
  obtain ⟨-, -, -, -, hnd⟩ := tableInv_tableOf le_rfl hw (show L.length < 512 by omega)
  obtain ⟨l, code, hcode, -, rfl, -⟩ := codeOf_of_runBits hnd h
  obtain ⟨q, hsym, -⟩ := getElem?_of_codeOf hcode
  rw [symbols_tableOf, List.getElem?_map] at hsym
  obtain ⟨s, hs, rfl⟩ := Option.map_eq_some_iff.mp hsym
  obtain ⟨-, m, hm, h1, h15⟩ := slotOf_of_getElem? hs
  rw [codeOf_tableOf hw hL hm h1 h15] at hcode
  cases hcode
  exact ⟨l, by rwa [toNat_ofNat_symbol hw hm], h1, h15, rfl⟩

/-- How DECODE can fail, with `k` lengths left to try: past the last length, where the codes do not fill the code
space, or for lack of input. -/
def DecodeFails (L : List Nat) (k : Nat) (bits : List Bool) (e : Reject) : Prop :=
  e = .huffmanOverrun ∧ k ≤ bits.length ∧ firstCode L 16 < 2 ^ 16 ∨ e = .inputExhausted ∧ bits.length < k

/-- After `l` bits, none of them a code, DECODE is past the first code and every place it computes holds a symbol
(42 R113). -/
theorem decodeFails_of_runBits_error {w : Nat} {L : List Nat} (hL : L.length ≤ 320) {l k code pos : Nat}
    {bits : List Bool} {e : Reject} (hk : l + k = 15) (hcode : code < 2 ^ l) (hfirst : firstCode L (l + 1) ≤ 2 * code)
    (h : (decodeSymbol (tableOf w L) k (l + 1) code (firstCode L (l + 1)) (offsetOf L (l + 1))).runBits pos bits =
      .error e) : DecodeFails L k bits e := by
  induction k generalizing l code pos bits with
  | zero =>
    obtain rfl : l = 15 := hk
    cases h
    have hfree : firstCode L (15 + 1) < 2 ^ 16 := by omega
    exact .inl ⟨rfl, Nat.zero_le _, hfree⟩
  | succ k ih =>
    cases bits with
    | nil => cases h; exact .inr ⟨rfl, Nat.succ_pos k⟩
    | cons b bits =>
      obtain ⟨new, rfl, hbit⟩ : ∃ new, code = new / 2 ∧ b :: bits = fieldBits 1 new ++ bits := by
        refine ⟨2 * code + b.toNat, by have := b.toNat_lt; omega, ?_⟩
        cases b <;> simp [fieldBits]
      have hlt : new < 2 ^ (l + 1) := by rw [Nat.pow_succ]; omega
      have hshort : new < 2 ^ 15 := hlt.trans_le (Nat.pow_le_pow_right (by decide) (by omega))
      rw [hbit, runBits_decodeSymbol_succ _ k (l + 1) _ _ pos bits hshort,
        lengthCount_tableOf_eq_countOf w hL (by omega), ← firstCode_succ, ← offsetOf_succ] at h
      split at h
      · rename_i hhit
        have hnext := offsetOf_succ L (l + 1)
        have hlast := offsetOf_le_offsetOf L (show l + 1 + 1 ≤ 16 by omega)
        rw [← length_sortedSymbols_eq_offsetOf] at hlast
        have hin : offsetOf L (l + 1) + (new - firstCode L (l + 1)) < (tableOf w L).symbols.length := by
          rw [symbols_tableOf, List.length_map]
          omega
        rw [symbolAt, List.getElem?_eq_getElem hin] at h
        cases h
      · rename_i hmiss
        have hnext := firstCode_succ L (l + 1)
        rcases ih (by omega) hlt (by omega) h with ⟨he, hlen, hfree⟩ | ⟨he, hlen⟩
        · exact .inl ⟨he, Nat.succ_le_succ hlen, hfree⟩
        · exact .inr ⟨he, Nat.succ_lt_succ hlen⟩

theorem decodeFails_of_decodeProg_error {w : Nat} {L : List Nat} (hL : L.length ≤ 320) {pos : Nat} {bits : List Bool}
    {e : Reject} (h : (decodeProg (tableOf w L)).runBits pos bits = .error e) : DecodeFails L 15 bits e :=
  decodeFails_of_runBits_error hL (l := 0) (code := 0) rfl Nat.one_pos le_rfl h

/-- Settles O5: an answer is a used symbol with its length; an error is an overrun of an incomplete code or the end of
the input. -/
theorem decodeTotal : Obligations.DecodeTotal := by
  intro w strict L T pos bits hw hL hT
  obtain ⟨rfl, hmax⟩ := buildTable_some hT
  have hkraft := firstCode_sixteen hmax
  cases hrun : (decodeProg (tableOf w L)).runBits pos bits with
  | ok x => exact length_of_runBits_ok hw hL hrun
  | error e =>
    rcases decodeFails_of_decodeProg_error hL hrun with ⟨rfl, hlen, hfree⟩ | ⟨rfl, hlen⟩
    · exact ⟨hlen, by omega⟩
    · exact hlen

end Sys2Proof.Machine

/-! ## From the invariant every step answers

Where a run can be, no operation stops the model: an operation that does not answer raises a fault of the engine, and a
raised fault is a next state (20 R48; 42 R113; 45 R169; 60 R288). -/

namespace Sys2Proof.Machine

open Sys2Proof Sys2Proof.Abstract

/-- The outcome is a next state. -/
def Proceeds (o : Outcome) : Prop := ∃ t, o = .next t

/-- Where the operation does not answer it raises a fault of the engine; it is no stop of the model's. -/
def StopsByRaise {α : Type} (r : Res α) : Prop := ∀ stop, r = .error stop → ∃ e, stop = .raise e

@[simp] theorem proceeds_next (t : State) : Proceeds (.next t) := ⟨t, rfl⟩

@[simp] theorem stopsByRaise_ok {α : Type} (a : α) : StopsByRaise (.ok a : Res α) := fun _ h => by cases h

@[simp] theorem stopsByRaise_raise {α : Type} (e : ErrCode) : StopsByRaise (.error (.raise e) : Res α) :=
  fun _ h => by cases h; exact ⟨e, rfl⟩

/-- The error of one operation handed on as the error of another. -/
theorem stopsByRaise_of_eq_error {α β : Type} {r : Res α} (h : StopsByRaise r) {stop : Stop} (hr : r = .error stop) :
    StopsByRaise (.error stop : Res β) := by
  obtain ⟨e, rfl⟩ := h stop hr
  exact stopsByRaise_raise e

/-- A fault of the engine is taken (60 R288). -/
theorem proceeds_settle {s : State} {r : Res State} (h : StopsByRaise r) : Proceeds (settle s r) := by
  cases r with
  | ok t => exact ⟨t, rfl⟩
  | error stop =>
    obtain ⟨e, rfl⟩ := h stop rfl
    exact ⟨takeFault e s, rfl⟩

theorem proceeds_of_raises {e : ErrCode} {s : State} {o : Outcome} (h : Raises e s o) : Proceeds o := by
  obtain ⟨t, ht, -⟩ := h
  exact ⟨t, ht⟩

/-! ### READ, BUILD and OUT_APPEND -/

/-- With the input placed, READ stops at the end of the input only (40 R91). -/
theorem readBits_stopsByRaise {l : Launch} {n : Nat} {r : BitReader} (hn : n ≤ 32) (hr : ReaderInv l r)
    (hplaced : InputPlaced l) : StopsByRaise (readBits l n r) := by
  by_cases hin : readerPos r + n ≤ 8 * l.inLen.toNat
  · rw [readBits_of_readable hn hr hplaced hin]
    exact stopsByRaise_ok _
  · rw [readBits_of_exhausted hn hr hplaced (Nat.lt_of_not_le hin)]
    exact stopsByRaise_raise _

/-- The input has `e` more bits, or ends before them. -/
theorem readable_or_exhausted {s : State} (hr : ReaderInv s.launch s.reader) (hplaced : InputPlaced s.launch)
    (e : Nat) : Readable s e ∨ Exhausted s e :=
  (Nat.lt_or_ge (8 * s.launch.inLen.toNat) (s.bitpos + e)).symm.imp (⟨hr, hplaced, ·⟩) (⟨hr, hplaced, ·⟩)

theorem build_stopsByRaise (w : Nat) (strict : Bool) (L : List Nat) : StopsByRaise (build w strict L) :=
  fun _ h => ⟨_, build_error h⟩

theorem outAppend_stopsByRaise (b : Byte) (s : State) : StopsByRaise (outAppend b s) :=
  fun _ h => ⟨_, (outAppend_error h).1⟩

/-- Under the output's invariant every byte below `OUT_POS` has been written (10_state R18). -/
theorem historyWritten_of_outputInv {s : State} (h : OutputInv s) : HistoryWritten s := by
  obtain ⟨-, haddr, -⟩ := h
  intro a ha
  rw [isSome_memRead_iff, haddr]
  exact List.mem_range.mpr ha

/-! ### Programs of READs and ALIGNs, and DECODE -/

/-- Whatever bits the program READs, it answers with `P` or rejects them with a fault of the engine. -/
def AnswersOrRaises {α : Type} (P : α → Prop) : BitProg α → Prop
  | .done a => P a
  | .reject e => ∃ c, stopOf e = .raise c
  | .read n k => ∀ v < 2 ^ n, AnswersOrRaises P (k v)
  | .align k => AnswersOrRaises P k

theorem answersOrRaises_bind {α β : Type} {P : α → Prop} {Q : β → Prop} {p : BitProg α} {f : α → BitProg β}
    (hp : AnswersOrRaises P p) (hf : ∀ a, P a → AnswersOrRaises Q (f a)) : AnswersOrRaises Q (p.bind f) := by
  induction p with
  | done a => exact hf a hp
  | reject e => exact hp
  | read n k ih => exact fun v hv => ih v (hp v hv)
  | align k ih => exact ih hp

/-- Over the registers, with the input placed, such a program stops by a fault of the engine only. -/
theorem runProg_stopsByRaise {α : Type} {P : α → Prop} {l : Launch} {p : BitProg α} {r : BitReader} (hn : Narrow p)
    (hp : AnswersOrRaises P p) (hr : ReaderInv l r) (hplaced : InputPlaced l) : StopsByRaise (runProg l p r) := by
  induction p generalizing r with
  | done a => exact stopsByRaise_ok _
  | reject e =>
    obtain ⟨c, hc⟩ := hp
    rw [runProg, hc]
    exact stopsByRaise_raise c
  | read n k ih =>
    obtain ⟨hn32, hk⟩ := hn
    cases hread : readBits l n r with
    | ok x =>
      obtain ⟨hr', -⟩ := readBits_readerInv hn32 hr hread
      simp only [runProg, hread]
      exact ih x.1 (hk x.1) (hp x.1 (readBits_lt hread)) hr'
    | error stop =>
      simp only [runProg, hread]
      exact stopsByRaise_of_eq_error (readBits_stopsByRaise hn32 hr hplaced) hread
  | align k ih => exact ih hn hp (alignReader_readerInv hr).1

/-- DECODE after `l` bits: the code is not below the first code of the next length, and the lengths left to try count no
more symbols than stand in `SYMBOLS` from `idx` on; so a code found has a symbol (42 R113). -/
theorem answersOrRaises_decodeSymbol {w n : Nat} {T : HuffTable w} (hsyms : ∀ sym ∈ T.symbols, sym.toNat < n)
    {k l code first idx : Nat} (hk : l + k ≤ 15) (hcode : code < 2 ^ l) (hfirst : first ≤ 2 * code)
    (hidx : idx + ((List.range' (l + 1) k).map (lengthCount T)).sum ≤ T.symbols.length) :
    AnswersOrRaises (fun sym => sym.toNat < n) (decodeSymbol T k (l + 1) code first idx) := by
  induction k generalizing l code first idx with
  | zero => exact ⟨.huffmanOverrun, rfl⟩
  | succ k ih =>
    intro bit hbit
    have hlt : 2 * code + bit < 2 ^ (l + 1) := by rw [Nat.pow_succ]; omega
    have hfits : (2 * code + bit) % 0x8000 = 2 * code + bit :=
      Nat.mod_eq_of_lt (hlt.trans_le (Nat.pow_le_pow_right (by decide) (show l + 1 ≤ 15 by omega)))
    rw [List.range'_succ, List.map_cons, List.sum_cons] at hidx
    show AnswersOrRaises _ (ite _ (symbolAt T _) _)
    rw [hfits]
    split
    · have hin : idx + (2 * code + bit - first) < T.symbols.length := by omega
      rw [symbolAt, List.getElem?_eq_getElem hin]
      exact hsyms _ (List.getElem_mem hin)
    · exact ih (by omega) hlt (by omega) (by omega)

/-- From a table with I-HT, DECODE answers a symbol of the alphabet or overruns (42 R113, 45 R169). -/
theorem answersOrRaises_decodeProg {w n : Nat} {T : HuffTable w} (h : TableInv n T) :
    AnswersOrRaises (fun sym => sym.toNat < n) (decodeProg T) := by
  obtain ⟨hzero, hsum, hlen, hsyms, -⟩ := h
  rw [show List.range 16 = 0 :: List.range' 1 15 from rfl, List.map_cons, List.sum_cons, hzero, ← hlen] at hsum
  exact answersOrRaises_decodeSymbol hsyms (l := 0) (by decide) Nat.one_pos le_rfl hsum.le

theorem answersOrRaises_instrOr {o : Option Instr} (h : o.isSome = true) :
    AnswersOrRaises (fun _ => True) (instrOr o) := by
  obtain ⟨i, rfl⟩ := Option.isSome_iff_exists.mp h
  trivial

/-! ### The alphabets

Every symbol of an alphabet is an element (30_encoding R66, R71, R78). -/

theorem isSome_clInstr {sym : BitVec 5} (h : sym.toNat < 19) : (clInstr sym).isSome = true := by
  unfold clInstr
  split
  · rfl
  · rw [List.getElem?_eq_getElem (show sym.toNat - 16 < 3 by omega)]
    rfl

theorem isSome_llInstr {sym : BitVec 9} (h : sym.toNat < 288) : (llInstr sym).isSome = true := by
  unfold llInstr
  split
  · rfl
  · have hin : sym.toNat - 256 < 32 := by omega
    rw [List.getElem?_eq_getElem (show _ < llInstrs.length from hin)]
    rfl

theorem isSome_dInstr (sym : BitVec 5) : (dInstr sym).isSome = true := by
  rw [dInstr, List.getElem?_eq_getElem (show _ < dInstrs.length from sym.isLt)]
  rfl

theorem isSome_fixedLlInstr {sym : BitVec 9} (h : sym.toNat < 288) : (fixedLlInstr sym).isSome = true := by
  simp only [fixedLlInstr]
  split_ifs <;> rfl

/-! ### The fetch -/

theorem answersOrRaises_symbolProg {c : DecodeCtx} (hll : TableInv 288 c.tLl) (hd : TableInv 32 c.tD) :
    AnswersOrRaises (fun _ => True) (symbolProg c) := by
  unfold symbolProg
  split
  · refine answersOrRaises_bind (answersOrRaises_decodeProg hd) fun sym _ => ?_
    split
    · trivial
    · exact answersOrRaises_instrOr (isSome_dInstr sym)
  · refine answersOrRaises_bind (answersOrRaises_decodeProg hll) fun sym hsym => ?_
    split
    · exact answersOrRaises_instrOr (isSome_fixedLlInstr hsym)
    · exact answersOrRaises_instrOr (isSome_llInstr hsym)

/-- In a phase that takes an element from the stream, with I-HT for the tables it decodes by. -/
theorem answersOrRaises_elementProg {s : State} (hrest : atRest s.control.phase = false)
    (hfree : bitFree s.control.phase = false) (hp : PhaseInv s) :
    AnswersOrRaises (fun _ => True) (elementProg s.ctx) := by
  cases hs : s.control.phase <;> simp only [elementProg, State.ctx, hs]
  case dynLengths =>
    obtain ⟨-, -, hcl⟩ := (phaseInv_dynLengths hs).mp hp
    exact answersOrRaises_bind (answersOrRaises_decodeProg hcl) fun sym hsym =>
      answersOrRaises_instrOr (isSome_clInstr hsym)
  case symbol =>
    obtain ⟨hll, hd, -⟩ := (phaseInv_symbol hs).mp hp
    exact answersOrRaises_symbolProg hll hd
  case idle | done | fault => simp [hs, atRest] at hrest
  case fixedSetup | dynBuild | endCheck => simp [hs, bitFree] at hfree
  all_goals
    simp [AnswersOrRaises, zhdrProg, blockProg, storedHdrProg, storedByteProg, dynHdrProg, clenProg, adler32Prog]

theorem fetch_stopsByRaise {s : State} (hrest : atRest s.control.phase = false)
    (hfree : bitFree s.control.phase = false) (hr : ReaderInv s.launch s.reader) (hplaced : InputPlaced s.launch)
    (hp : PhaseInv s) : StopsByRaise (fetch s) := by
  have hrun := runProg_stopsByRaise (narrow_elementProg s.ctx) (answersOrRaises_elementProg hrest hfree hp) hr hplaced
  unfold fetch
  split
  · exact stopsByRaise_ok _
  · rename_i hstop
    exact stopsByRaise_of_eq_error hrun hstop

/-! ### The elements -/

theorem readOperand_stopsByRaise (base : Nat) {e : Nat} {s : State} (he : e ≤ 32) (hr : ReaderInv s.launch s.reader)
    (hplaced : InputPlaced s.launch) : StopsByRaise (readOperand base e s) := by
  rcases readable_or_exhausted hr hplaced e with h | h
  · rw [readOperand_of_readable he h]
    exact stopsByRaise_ok _
  · rw [readOperand_of_exhausted he h]
    exact stopsByRaise_raise _

theorem repeatLengths_stopsByRaise (v : BitVec 4) (base : Nat) {e : Nat} {s : State} (he : e ≤ 32)
    (hr : ReaderInv s.launch s.reader) (hplaced : InputPlaced s.launch) :
    StopsByRaise (repeatLengths v base e s) := by
  unfold repeatLengths
  split
  · split
    · exact stopsByRaise_raise _
    · exact stopsByRaise_ok _
  · rename_i hstop
    exact stopsByRaise_of_eq_error (readOperand_stopsByRaise base he hr hplaced) hstop

theorem proceeds_of_literalRuns {b : Byte} {s : State} {o : Outcome} (h : LiteralRuns b s o) : Proceeds o := by
  obtain ⟨hfull, hfits⟩ := h
  by_cases hroom : Room 1 s
  · obtain ⟨t, ht, -⟩ := hfits hroom
    exact ⟨t, ht⟩
  · exact proceeds_of_raises (hfull hroom)

theorem proceeds_of_lengthRuns {base e : Nat} {s : State} {o : Outcome} (h : LengthRuns base e s o)
    (hr : ReaderInv s.launch s.reader) (hplaced : InputPlaced s.launch) : Proceeds o := by
  obtain ⟨hends, hreads⟩ := h
  rcases readable_or_exhausted hr hplaced e with hin | hout
  · obtain ⟨t, ht, -⟩ := hreads hin
    exact ⟨t, ht⟩
  · exact proceeds_of_raises (hends hout)

/-- A copy reads written bytes only (20 R48): the distance reaches no further back than the output. -/
theorem proceeds_of_distanceRuns {base e : Nat} {k : BitVec 9} {s : State} {o : Outcome} (h : DistanceRuns base e s o)
    (hk : s.matchLen = some k) (hr : ReaderInv s.launch s.reader) (hplaced : InputPlaced s.launch)
    (hout : OutputInv s) : Proceeds o := by
  obtain ⟨hends, hfar, hfull, hcopies⟩ := h k hk
  have hwritten := historyWritten_of_outputInv hout
  rcases readable_or_exhausted hr hplaced e with hin | hout'
  · rcases Nat.lt_or_ge s.out.outPos.toNat (base + fieldAt s.launch s.bitpos e) with hdist | hdist
    · exact proceeds_of_raises (hfar hin hdist)
    · by_cases hroom : Room k.toNat s
      · obtain ⟨t, ht, -⟩ := hcopies hin hdist hwritten hroom
        exact ⟨t, ht⟩
      · have hpos : k ≠ 0#9 := fun h0 => hroom (by rw [h0]; exact hout.1)
        exact proceeds_of_raises (hfull hin hdist hwritten hpos hroom)
  · exact proceeds_of_raises (hends hout')

/-- A literal/length instruction stands for a symbol of the alphabet (R66, R71, R78). -/
theorem litlenNumber_lt {i : Instr} {n : Nat} (h : litlenNumber i = some n) : n < 288 := by
  cases i <;> simp only [litlenNumber, shape, Option.some.injEq, reduceCtorEq] at h <;> subst h
  case lit b =>
    rw [BitVec.toNat_setWidth]
    omega
  case fixedLl256To271 x | fixedLl272To279 x | fixedLl0To15 x | fixedLl16To79 x | fixedLl80To143 x
      | fixedLl280To287 x | fixedLl144To159 x | fixedLl160To191 x | fixedLl192To255 x =>
    rw [BitVec.toNat_ofNat]
    omega
  all_goals decide

theorem distNumber_lt {i : Instr} {n : Nat} (h : distNumber i = some n) : n < 32 := by
  revert h
  unfold distNumber
  cases shape i <;> rintro ⟨⟩ <;> exact BitVec.isLt _

theorem runLitlen_proceeds {n : Nat} {s : State} (hn : n < 288) (hr : ReaderInv s.launch s.reader)
    (hplaced : InputPlaced s.launch) : Proceeds (runLitlen n s) := by
  obtain hlit | rfl | ⟨k, hk, rfl⟩ | hres :
      n < 256 ∨ n = 256 ∨ (∃ k < 29, n = 257 + k) ∨ (n = 286 ∨ n = 287) := by
    by_cases hlen : 257 ≤ n ∧ n < 286
    · exact .inr (.inr (.inl ⟨n - 257, by omega⟩))
    · omega
  · exact proceeds_of_literalRuns (literalRuns_runLitlen hlit s)
  · exact ⟨_, runLitlen_endOfBlock s⟩
  · rw [runLitlen_length hk]
    exact proceeds_of_lengthRuns (lengthRuns_lengthSymbol (lext_le k) (length_lt hk) s) hr hplaced
  · exact ⟨_, runLitlen_reserved hres s⟩

theorem runDist_proceeds {n : Nat} {k : BitVec 9} {s : State} (hn : n < 32) (hk : s.matchLen = some k)
    (hr : ReaderInv s.launch s.reader) (hplaced : InputPlaced s.launch) (hout : OutputInv s) :
    Proceeds (runDist n s) := by
  by_cases hdist : n < 30
  · rw [runDist_distance hdist]
    exact proceeds_of_distanceRuns (distanceRuns_distanceSymbol (dext_le n) (one_le_dbase hdist) s) hk hr hplaced hout
  · exact ⟨_, runDist_reserved (by omega) s⟩

/-- A code-length field stands at a place of `CL_ORDER` (44 R142). -/
theorem execClen_proceeds (v : BitVec 3) {s : State} (h : s.dyn.clIdx.toNat < 19) : Proceeds (execClen v s) := by
  have hsym : clOrder[s.dyn.clIdx.toNat]? = some _ := List.getElem?_eq_getElem (show _ < clOrder.length from h)
  simp only [execClen, hsym]
  split
  · refine proceeds_settle ?_
    split
    · exact stopsByRaise_ok _
    · rename_i hstop
      exact stopsByRaise_of_eq_error (build_stopsByRaise _ _ _) hstop
  · exact proceeds_next _

/-- A code length stands at a place of `LENGTHS` (44 R145). -/
theorem execClLen_proceeds (v : BitVec 4) {s : State} (h : s.dyn.lenIdx.toNat < 320) : Proceeds (execClLen v s) := by
  rw [execClLen, if_pos h]
  exact proceeds_next _

theorem execCl16_proceeds {s : State} (hr : ReaderInv s.launch s.reader) (hplaced : InputPlaced s.launch) :
    Proceeds (execCl16 s) := by
  refine proceeds_settle ?_
  split
  · exact stopsByRaise_raise _
  · exact repeatLengths_stopsByRaise _ _ (by decide) hr hplaced

theorem execZhdr_proceeds (cm cinfo : BitVec 4) (fcheck : BitVec 5) (fdict : BitVec 1) (flevel : BitVec 2)
    (s : State) : Proceeds (execZhdr cm cinfo fcheck fdict flevel s) :=
  proceeds_settle (by split_ifs <;> simp)

theorem execStoredHdr_proceeds (len nlen : BitVec 16) (s : State) : Proceeds (execStoredHdr len nlen s) :=
  proceeds_settle (by split_ifs <;> simp)

theorem execStoredByte_proceeds (b : Byte) (s : State) : Proceeds (execStoredByte b s) := by
  refine proceeds_settle ?_
  split
  · exact stopsByRaise_ok _
  · rename_i hstop
    exact stopsByRaise_of_eq_error (outAppend_stopsByRaise b s) hstop

theorem execAdler32_proceeds (bHi bLo aHi aLo : BitVec 8) (s : State) :
    Proceeds (execAdler32 bHi bLo aHi aLo s) :=
  proceeds_settle (by split_ifs <;> simp)

/-- An element of the phase, executed where the fetch left the bit reader, does not stop the model. -/
theorem exec_proceeds {s : State} {r : BitReader} {i : Instr} (ha : admits s.ctx i = true) (hp : PhaseInv s)
    (hl : Live (s.setReader r)) (hplaced : InputPlaced s.launch) : Proceeds (exec i (s.setReader r)) := by
  cases hlit : litlenNumber i with
  | some n =>
    rw [exec_eq_runLitlen hlit]
    exact runLitlen_proceeds (litlenNumber_lt hlit) hl.reader hplaced
  | none =>
    cases hdist : distNumber i with
    | some n =>
      have hpending : s.matchLen.isSome = true := (phase_of_distNumber ha hdist).2
      obtain ⟨k, hk⟩ := Option.isSome_iff_exists.mp hpending
      rw [exec_eq_runDist hdist]
      exact runDist_proceeds (distNumber_lt hdist) hk hl.reader hplaced hl.output
    | none =>
      cases i with
      | zhdr => exact execZhdr_proceeds _ _ _ _ _ _
      | blockStored | blockFixed | blockDynamic | blockReserved | dynHdr => exact ⟨_, rfl⟩
      | storedHdr => exact execStoredHdr_proceeds _ _ _
      | storedByte => exact execStoredByte_proceeds _ _
      | clen v =>
        have hphase : s.control.phase = .dynClen := phase_of_wordPhase ha rfl
        obtain ⟨-, hidx, -⟩ := (phaseInv_dynClen hphase).mp hp
        exact execClen_proceeds v (hidx.trans_le (nCode_le s.dyn))
      | adler32 => exact execAdler32_proceeds _ _ _ _ _
      | clLen v =>
        have hphase : s.control.phase = .dynLengths := phase_of_isClSymbol ha rfl
        obtain ⟨-, hidx, -⟩ := (phaseInv_dynLengths hphase).mp hp
        exact execClLen_proceeds v (hidx.trans_le (nLl_add_nD_le s.dyn))
      | cl16 => exact execCl16_proceeds hl.reader hplaced
      | cl17 | cl18 => exact proceeds_settle (repeatLengths_stopsByRaise _ _ (by decide) hl.reader hplaced)
      | _ => simp [litlenNumber, distNumber, shape] at hlit hdist

/-! ### The steps -/

/-- Half a step or a whole one. -/
theorem fetchExec_proceeds {s : State} (hl : Live s) (hp : PhaseInv s) (hfree : bitFree s.control.phase = false)
    (hplaced : InputPlaced s.launch) : Proceeds (fetchExec s) := by
  cases hf : fetch s with
  | ok x =>
    obtain ⟨i, s'⟩ := x
    obtain ⟨hr, -⟩ := fetch_readerInv hl.reader hf
    obtain ⟨r, -, rfl⟩ := fetch_ok hf
    rw [fetchExec_of_fetch_ok hf]
    exact exec_proceeds (fetch_admits hf) hp (live_setReader hl hr) hplaced
  | error stop =>
    obtain ⟨e, rfl⟩ := fetch_stopsByRaise hl.running hfree hl.reader hplaced hp stop hf
    exact ⟨_, fetchExec_of_fetch_raise hf⟩

/-- One stream element, a whole match included: the first half of a match keeps the invariant of the run. -/
theorem elementStep_proceeds {s : State} (hl : Live s) (hp : PhaseInv s) (hfree : bitFree s.control.phase = false)
    (hplaced : InputPlaced s.launch) (hm : s.matchLen = none) : Proceeds (elementStep s) := by
  obtain ⟨t, ht⟩ := fetchExec_proceeds hl hp hfree hplaced
  rw [elementStep, ht]
  cases hpend : t.matchLen with
  | none => exact ⟨t, completeMatch_next (.inr hpend)⟩
  | some k =>
    have hsome : t.matchLen.isSome = true := by rw [hpend]; rfl
    obtain ⟨hphase, r, heq⟩ := fetchExec_pending ht hm hsome
    have hphase' : t.control.phase = .symbol := by rw [heq]; exact hphase
    have hplaced' : InputPlaced t.launch := by rw [heq]; exact hplaced
    obtain ⟨hl', hp'⟩ := live_of_runInv (fetchExec_runInv ht hl hp) (by rw [hphase']; rfl)
    rw [completeMatch_pending hm hsome]
    exact fetchExec_proceeds hl' hp' (by rw [hphase']; rfl) hplaced'

theorem buildBlockTables_proceeds (litlen dist : List Nat) (s : State) :
    Proceeds (buildBlockTables litlen dist s) := by
  refine proceeds_settle ?_
  split
  · rename_i hstop
    exact stopsByRaise_of_eq_error (build_stopsByRaise _ _ _) hstop
  · split
    · rename_i hstop
      exact stopsByRaise_of_eq_error (build_stopsByRaise _ _ _) hstop
    · exact stopsByRaise_ok _

theorem endCheck_proceeds (s : State) : Proceeds (endCheck s) :=
  proceeds_settle (by split_ifs <;> simp)

/-- Settles O54: at rest a step answers the state itself; a bit-free step and a stream element answer or raise. -/
theorem stepAlwaysAnswers : Obligations.StepAlwaysAnswers := by
  intro s hinv hplaced
  change Proceeds (step s)
  obtain ⟨hrun, hm⟩ := inv_iff.mp hinv
  have of_element (hrest : atRest s.control.phase = false) (hfree : bitFree s.control.phase = false) :
      Proceeds (step s) := by
    obtain ⟨hl, hp⟩ := live_of_runInv hrun hrest
    rw [step_eq_elementStep hrest hfree]
    exact elementStep_proceeds hl hp hfree hplaced hm
  cases hs : s.control.phase
  case idle | done | fault =>
    simp only [step, phaseStep, hs]
    exact proceeds_next s
  case fixedSetup | dynBuild =>
    simp only [step, phaseStep, hs]
    exact buildBlockTables_proceeds _ _ s
  case endCheck =>
    simp only [step, phaseStep, hs]
    exact endCheck_proceeds s
  all_goals exact of_element (by rw [hs]; rfl) (by rw [hs]; rfl)

end Sys2Proof.Machine

/-! ## DECODE on the empty table

No code length has a symbol, so no code is found whatever the bits are (42 R111, R112). -/

namespace Sys2Proof.Machine

open Sys2Proof Sys2Proof.Abstract

theorem lengthCount_emptyTable (w l : Nat) : lengthCount (emptyTable w) l = 0 := by
  by_cases hl : l < 16 <;> simp [lengthCount, emptyTable, Vector.getD, hl]

/-- With `k` lengths left to try, DECODE reads `k` bits and overruns, or runs out of input. -/
theorem runBits_decodeSymbol_emptyTable (w k l code idx pos : Nat) (bits : List Bool) :
    (decodeSymbol (emptyTable w) k l code 0 idx).runBits pos bits =
      if k ≤ bits.length then .error .huffmanOverrun else .error .inputExhausted := by
  induction k generalizing l code idx pos bits with
  | zero => rfl
  | succ k ih =>
    cases bits with
    | nil => rfl
    | cons b bits =>
      simp [decodeSymbol, lengthCount_emptyTable, BitProg.runBits, ih]

theorem runBits_decodeProg_emptyTable (w pos : Nat) (bits : List Bool) :
    (decodeProg (emptyTable w)).runBits pos bits =
      if 15 ≤ bits.length then .error .huffmanOverrun else .error .inputExhausted :=
  runBits_decodeSymbol_emptyTable w 15 1 0 0 pos bits

/-- The fetch of an element that begins with a symbol of an empty table overruns, if the input has 15 bits left. -/
theorem fetch_of_emptyTable {w : Nat} {s : State} {f : BitVec w → BitProg Instr}
    (hprog : elementProg s.ctx = (decodeProg (emptyTable w)).bind f) (h : Readable s 15) :
    fetch s = .error (.raise .huffmanOverrun) := by
  obtain ⟨hr, hplaced, hin⟩ := h
  have hbits : 15 ≤ (streamFrom s.launch s.bitpos).length := by rw [length_streamFrom]; omega
  rw [fetchDecodesTheStream s hr hplaced, hprog, runBits_bind, runBits_decodeProg_emptyTable, if_pos hbits]
  rfl

theorem fetch_of_emptyTable_cl {s : State} (hs : s.control.phase = .dynLengths) (ht : s.tables.tCl = emptyTable 5)
    (h : Readable s 15) : fetch s = .error (.raise .huffmanOverrun) :=
  fetch_of_emptyTable (f := fun sym => instrOr (clInstr sym)) (by simp only [elementProg, State.ctx, hs, ht]) h

theorem fetch_of_emptyTable_litlen {s : State} (hs : s.control.phase = .symbol) (hm : s.matchLen = none)
    (ht : s.tables.tLl = emptyTable 9) (h : Readable s 15) : fetch s = .error (.raise .huffmanOverrun) :=
  fetch_of_emptyTable
    (f := fun sym => if s.block.btype = 1#2 then instrOr (fixedLlInstr sym) else instrOr (llInstr sym))
    (by simp [elementProg, symbolProg, State.ctx, hs, hm, ht]) h

theorem fetch_of_emptyTable_dist {s : State} (hs : s.control.phase = .symbol) (hm : s.matchLen.isSome = true)
    (ht : s.tables.tD = emptyTable 5) (h : Readable s 15) : fetch s = .error (.raise .huffmanOverrun) :=
  fetch_of_emptyTable
    (f := fun sym => if s.block.btype = 1#2 then .done (.fixedD0To31 sym) else instrOr (dInstr sym))
    (by simp [elementProg, symbolProg, State.ctx, hs, hm, ht]) h

/-- A fault of the fetch is the step's (60 R288). -/
theorem raises_step_of_fetch_raise {s : State} {e : ErrCode} (hrest : atRest s.control.phase = false)
    (hfree : bitFree s.control.phase = false) (h : fetch s = .error (.raise e)) : Raises e s (step s) := by
  obtain ⟨-, hfault⟩ := stepRunsTheDecodedElement s hrest hfree
  exact ⟨takeFault e s, hfault e h, rfl, rfl⟩

/-- Settles O15: the table in use decodes nothing, in either half of a match; the first half leaves the launch
parameters. -/
theorem emptyTableOverruns : Obligations.EmptyTableOverruns := by
  refine ⟨runBits_decodeProg_emptyTable, fun s hs ht h => ?_, fun s hs hm ht h => ?_,
    fun s s' t i hs hm hf he hpend ht h => ?_⟩
  · exact raises_step_of_fetch_raise (by rw [hs]; rfl) (by rw [hs]; rfl) (fetch_of_emptyTable_cl hs ht h)
  · exact raises_step_of_fetch_raise (by rw [hs]; rfl) (by rw [hs]; rfl) (fetch_of_emptyTable_litlen hs hm ht h)
  · have hfirst : fetchExec s = .next t := (fetchExec_of_fetch_ok hf).trans he
    obtain ⟨-, r, heq⟩ := fetchExec_pending hfirst hm hpend
    have hphase : t.control.phase = .symbol := by rw [heq]; exact hs
    have hlaunch : t.launch = s.launch := by rw [heq]; rfl
    obtain ⟨hmatch, -⟩ := stepRunsTheDecodedElement s (by rw [hs]; rfl) (by rw [hs]; rfl)
    obtain ⟨-, -, hfault, -⟩ := hmatch i s' hf
    exact ⟨takeFault .huffmanOverrun t,
      hfault t _ hm he hpend (fetch_of_emptyTable_dist hphase hpend ht h), rfl, hlaunch⟩

end Sys2Proof.Machine

/-! ## Block headers and stored blocks

What `BLOCK`, `STORED_HDR` and `STORED_BYTE` do (43 R120 to R127), and the copy of a whole stored block: from a byte
boundary each step moves one input byte to the output. -/

namespace Sys2Proof.Machine

open Sys2Proof Sys2Proof.Abstract

/-! ### The headers -/

/-- Settles O25: the three types latch the header, each with its phase; type 3 is a raised fault. -/
theorem blockHeaderSelectsTheBody : Obligations.BlockHeaderSelectsTheBody :=
  fun _ s => ⟨rfl, rfl, rfl, raises_settle .btypeReserved s⟩

/-- The complement check of R126 in arithmetic. -/
theorem eq_xor_ones_iff (len nlen : BitVec 16) :
    nlen = len ^^^ 0xFFFF#16 ↔ len.toNat + nlen.toNat = 65535 := by
  have hnot : len ^^^ 0xFFFF#16 = ~~~len := BitVec.xor_allOnes
  rw [hnot, ← BitVec.toNat_inj, BitVec.toNat_not]
  have := len.isLt
  omega

theorem execStoredHdr_of_bad_nlen {len nlen : BitVec 16} {s : State} (hstrict : strictNlen s.launch = true)
    (hbad : nlen ≠ len ^^^ 0xFFFF#16) :
    execStoredHdr len nlen s = settle s (.error (.raise .storedNlen)) :=
  congrArg (settle s) (if_pos ⟨hstrict, hbad⟩)

theorem execStoredHdr_of_ok {len nlen : BitVec 16} {s : State}
    (h : ¬ (strictNlen s.launch = true ∧ nlen ≠ len ^^^ 0xFFFF#16)) :
    execStoredHdr len nlen s =
      .next ((s.setBlock { s.block with len := len, nlen := nlen, copyRem := len }).setPhase
        (if len = 0#16 then afterBlock s else .storedCopy)) := by
  rw [afterBlock_eq_phaseAfterBlock, execStoredHdr, if_neg h]
  split <;> rfl

/-- Settles O26: by the check, which asks for the complement under `STRICT_NLEN` only. -/
theorem storedHeaderLatchesLengths : Obligations.StoredHeaderLatchesLengths := by
  intro len nlen s
  rw [ne_eq, ← eq_xor_ones_iff]
  refine ⟨fun hstrict hbad => ?_, fun hok => ?_⟩
  · have hraise : exec (.storedHdr len nlen) s = settle s (.error (.raise .storedNlen)) :=
      execStoredHdr_of_bad_nlen hstrict hbad
    rw [hraise]
    exact raises_settle .storedNlen s
  · refine execStoredHdr_of_ok fun ⟨hstrict, hbad⟩ => ?_
    rcases hok with hlax | hgood
    · exact absurd (hlax.symm.trans hstrict) (by decide)
    · exact hbad hgood

/-! ### One stored byte -/

theorem countStored_copyRem {s : State} (h : s.block.copyRem ≠ 0#16) :
    (countStored s).block.copyRem.toNat = s.block.copyRem.toNat - 1 := by
  have hpos : s.block.copyRem.toNat ≠ 0 := fun h0 => h (BitVec.eq_of_toNat_eq h0)
  have := s.block.copyRem.isLt
  rw [countStored_eq, State.setPhase_block, State.setBlock_block, BitVec.toNat_sub, BitVec.toNat_ofNat]
  omega

theorem countStored_control (s : State) :
    (countStored s).control =
      { s.control with phase := if s.block.copyRem = 1#16 then afterBlock s else s.control.phase } := by
  have hlast : s.block.copyRem - 1#16 = 0#16 ↔ s.block.copyRem = 1#16 := sub_eq_zero
  rw [countStored_eq, afterBlock_eq_phaseAfterBlock]
  simp only [State.setPhase_control, State.setBlock_control, hlast]

theorem execStoredByte_of_not_room {b : Byte} {s : State} (h : ¬ Room 1 s) :
    execStoredByte b s = settle s (.error (.raise .sizeMismatch)) := by
  simp only [execStoredByte, outAppend_of_not_room h]

theorem execStoredByte_of_outAppend {b : Byte} {s t : State} (h : outAppend b s = .ok t) :
    execStoredByte b s = .next (countStored t) := by
  simp only [execStoredByte, h, settle]

/-- Settles O27: OUT_APPEND, then the count, which touches `COPY_REM` and `PHASE` only. -/
theorem storedByteIsAppended : Obligations.StoredByteIsAppended := by
  intro b s hrem
  refine ⟨fun hfull => ?_, fun hroom => ?_⟩
  · have hraise : exec (.storedByte b) s = settle s (.error (.raise .sizeMismatch)) :=
      execStoredByte_of_not_room hfull
    rw [hraise]
    exact raises_settle .sizeMismatch s
  · obtain ⟨s', happ⟩ := outAppend_of_room b hroom
    have hdone := outAppend_appended happ
    obtain ⟨-, rfl⟩ := outAppend_ok happ
    refine ⟨_, execStoredByte_of_outAppend happ, countStored_copyRem hrem,
      congrArg Control.phase (countStored_control _), ?_⟩
    rw [countStored_eq]
    exact hdone

/-! ### READ of a whole byte -/

/-- Eight bits from a byte boundary are the byte that stands there (40 R94). -/
theorem fieldAt_byte {l : Launch} {p : Nat} {b : Byte} (hb : memRead l.inMem p = some b) :
    fieldAt l (8 * p) 8 = b.toNat := by
  have hbits (i : Nat) (hi : i < 8) : streamBit l (8 * p + i) = b.toNat.testBit i := by
    have hbyte : (8 * p + i) / 8 = p := by omega
    have hbit : (8 * p + i) % 8 = i := by omega
    simp only [streamBit, hbyte, hbit, hb]
    rfl
  have hmap : ((List.range 8).map fun i => streamBit l (8 * p + i)) = fieldBits 8 b.toNat := by
    rw [fieldBits_eq_map_testBit]
    exact List.map_congr_left fun i hi => hbits i (List.mem_range.mp hi)
  rw [fieldAt, ← natOfBits_map_range, hmap, natOfBits_fieldBits, Nat.mod_eq_of_lt b.isLt]

/-- At a byte boundary no bits are held (40 R94). -/
theorem readerAt_byte (l : Launch) (p : Nat) :
    readerAt l (8 * p) = { bytePos := BitVec.ofNat 32 p, bitBuf := 0#64, bitCount := 0#6 } := by
  have hpos : bytePosAt (8 * p) = p := by simp only [bytePosAt]; omega
  simp only [readerAt, hpos, Nat.sub_self, if_true]

/-- In `PH_STORED_COPY`, at a byte boundary, the fetch takes the next input byte (43 R124, R127). -/
theorem fetch_storedByte {s : State} {b : Byte} (hs : s.control.phase = .storedCopy) (hr : ReaderInv s.launch s.reader)
    (hc : s.reader.bitCount = 0#6) (hplaced : InputPlaced s.launch)
    (hin : s.reader.bytePos.toNat < s.launch.inLen.toNat)
    (hb : memRead s.launch.inMem s.reader.bytePos.toNat = some b) :
    fetch s = .ok (.storedByte b, s.setReader (readerAt s.launch (8 * (s.reader.bytePos.toNat + 1)))) := by
  have hpos : readerPos s.reader = 8 * s.reader.bytePos.toNat := by simp [readerPos, hc]
  have hread := readBits_of_readable (n := 8) (by decide) hr hplaced (by omega)
  rw [hpos, fieldAt_byte hb, ← Nat.mul_succ] at hread
  simp only [fetch, elementProg, State.ctx, hs, storedByteProg, runProg, hread, BitVec.ofNat_toNat, BitVec.setWidth_eq]

/-! ### The copy of a stored block -/

/-- One step of `PH_STORED_COPY`: the next input byte goes to the end of the output and is counted (43 R127). -/
structure ByteCopied (s t : State) : Prop where
  launch : t.launch = s.launch
  control : t.control =
    { s.control with phase := if s.block.copyRem = 1#16 then afterBlock s else s.control.phase }
  bfinal : t.block.bfinal = s.block.bfinal
  copyRem : t.block.copyRem.toNat = s.block.copyRem.toNat - 1
  bytePos : t.reader.bytePos.toNat = s.reader.bytePos.toNat + 1
  outPos : t.out.outPos.toNat = s.out.outPos.toNat + 1
  byte : memRead t.out.outMem s.out.outPos.toNat = memRead s.launch.inMem s.reader.bytePos.toNat
  others : MemSameOutside s.out.outPos.toNat 1 s t

theorem byteCopied_countStored {b : Byte} {s s' : State} {r : BitReader} (hrem : s.block.copyRem ≠ 0#16)
    (hr : r.bytePos.toNat = s.reader.bytePos.toNat + 1)
    (hb : memRead s.launch.inMem s.reader.bytePos.toNat = some b) (happ : outAppend b (s.setReader r) = .ok s') :
    ByteCopied s (countStored s') := by
  obtain ⟨hbyte, hothers, hpos, -⟩ := outAppend_appended happ
  obtain ⟨-, rfl⟩ := outAppend_ok happ
  exact {
    launch := by rw [countStored_eq]; rfl
    control := countStored_control _
    bfinal := by rw [countStored_eq]; rfl
    copyRem := countStored_copyRem hrem
    bytePos := by rw [countStored_eq]; exact hr
    outPos := by rw [countStored_eq]; exact hpos
    byte := by rw [countStored_eq, hb]; exact hbyte
    others := by rw [countStored_eq]; exact hothers }

/-- A step of `PH_STORED_COPY`, where input and output have room: the fetch keeps the byte boundary. -/
theorem step_storedCopy {s : State} (hinv : Inv s) (hplaced : InputPlaced s.launch) (hs : s.control.phase = .storedCopy)
    (hin : s.reader.bytePos.toNat < s.launch.inLen.toNat) (hroom : Room 1 s) :
    ∃ t, step s = .next t ∧ ByteCopied s t := by
  obtain ⟨hrun, hm⟩ := inv_iff.mp hinv
  obtain ⟨hl, hp⟩ := live_of_runInv hrun (by rw [hs]; rfl)
  obtain ⟨-, hc, hrem, -⟩ := (phaseInv_storedCopy hs).mp hp
  obtain ⟨b, hb⟩ := Option.isSome_iff_exists.mp (hplaced _ hin)
  have hfetch := fetch_storedByte hs hl.reader hc hplaced hin hb
  have hnext : (readerAt s.launch (8 * (s.reader.bytePos.toNat + 1))).bytePos.toNat = s.reader.bytePos.toNat + 1 := by
    have := s.launch.inLen.isLt
    rw [readerAt_byte, BitVec.toNat_ofNat, Nat.mod_eq_of_lt (by omega)]
  generalize readerAt s.launch (8 * (s.reader.bytePos.toNat + 1)) = r at hfetch hnext
  obtain ⟨s', happ⟩ := outAppend_of_room b (s := s.setReader r) hroom
  have hexec : fetchExec s = .next (countStored s') :=
    (fetchExec_of_fetch_ok hfetch).trans (execStoredByte_of_outAppend happ)
  have hpending : (countStored s').matchLen = none := by
    rw [countStored_eq, outAppend_frame happ]
    exact hm
  refine ⟨countStored s', ?_, byteCopied_countStored hrem hnext hb happ⟩
  rw [step_eq_elementStep (by rw [hs]; rfl) (by rw [hs]; rfl), elementStep, hexec]
  exact completeMatch_next (.inr hpending)

/-- A run begins with its first step. -/
theorem run_succ_of_step {k : Nat} {s t : State} (h : step s = .next t) :
    Sys2Proof.core.run (k + 1) s = Sys2Proof.core.run k t := by
  have hcore : Sys2Proof.core.step s = .next t := h
  simp only [Host.Core.run, hcore]

/-- The copy of the `n` bytes left of a stored block: what O48 says of the state after it. -/
structure BlockCopied (n : Nat) (s t : State) : Prop where
  control : t.control = { s.control with phase := afterBlock s }
  outPos : t.out.outPos.toNat = s.out.outPos.toNat + n
  bytePos : t.reader.bytePos.toNat = s.reader.bytePos.toNat + n
  bytes : ∀ j < n, memRead t.out.outMem (s.out.outPos.toNat + j) =
    memRead s.launch.inMem (s.reader.bytePos.toNat + j)
  others : MemSameOutside s.out.outPos.toNat n s t

theorem blockCopied_one {s t : State} (h : ByteCopied s t) (hlast : s.block.copyRem = 1#16) : BlockCopied 1 s t where
  control := by rw [h.control, if_pos hlast]
  outPos := h.outPos
  bytePos := h.bytePos
  bytes := fun j hj => by rw [Nat.lt_one_iff.mp hj]; exact h.byte
  others := h.others

/-- The first byte, then the rest of the block: the rest leaves the byte just written. -/
theorem blockCopied_succ {k : Nat} {s s' t : State} (h : ByteCopied s s') (hrest : BlockCopied k s' t) :
    BlockCopied (k + 1) s t where
  control := by rw [hrest.control, h.control, afterBlock, afterBlock, h.bfinal]
  outPos := by rw [hrest.outPos, h.outPos]; omega
  bytePos := by rw [hrest.bytePos, h.bytePos]; omega
  bytes := fun j hj => by
    have hpos := h.outPos
    cases j with
    | zero => exact (hrest.others _ (by omega)).trans h.byte
    | succ j =>
      have hbyte := hrest.bytes j (by omega)
      rwa [h.outPos, h.bytePos, h.launch, Nat.add_right_comm, Nat.add_right_comm _ 1 j] at hbyte
  others := fun a ha => by
    have hpos := h.outPos
    exact (hrest.others a (by omega)).trans (h.others a (by omega))

/-- By induction on the bytes left: after a byte that is not the last the engine is in `PH_STORED_COPY` still. -/
theorem run_storedCopy {n : Nat} {s : State} (hinv : Inv s) (hplaced : InputPlaced s.launch)
    (hs : s.control.phase = .storedCopy) (hn : s.block.copyRem.toNat = n + 1)
    (hin : s.reader.bytePos.toNat + (n + 1) ≤ s.launch.inLen.toNat) (hroom : Room (n + 1) s) :
    ∃ t : State, Sys2Proof.core.run (n + 1) s = .next t ∧ BlockCopied (n + 1) s t := by
  induction n generalizing s with
  | zero =>
    obtain ⟨t, hstep, hbyte⟩ := step_storedCopy hinv hplaced hs (by omega) hroom
    exact ⟨t, run_succ_of_step hstep, blockCopied_one hbyte (BitVec.eq_of_toNat_eq hn)⟩
  | succ n ih =>
    unfold Room at hroom
    obtain ⟨s', hstep, hbyte⟩ := step_storedCopy hinv hplaced hs (by omega) (by unfold Room; omega)
    have hmore : s.block.copyRem ≠ 1#16 := fun h1 => by simp [h1] at hn
    have hs' : s'.control.phase = .storedCopy := by rw [hbyte.control, if_neg hmore]; exact hs
    have hcount := hbyte.copyRem
    have hpos := hbyte.bytePos
    have hroom' : Room (n + 1) s' := by unfold Room; rw [hbyte.outPos, hbyte.launch]; omega
    have hinv' := everyStepKeepsTheInvariant s s' hinv hstep
    obtain ⟨t, hrun, hrest⟩ := ih hinv' (by rwa [hbyte.launch]) hs' (by omega)
      (by rw [hbyte.launch]; omega) hroom'
    exact ⟨t, (run_succ_of_step hstep).trans hrun, blockCopied_succ hbyte hrest⟩

/-- Settles O48: in `PH_STORED_COPY` there is a byte left, so the run has a first step. -/
theorem storedBlockIsVerbatim : Obligations.StoredBlockIsVerbatim := by
  rintro s n hinv hplaced hs rfl hin hroom
  obtain ⟨-, hp⟩ := live_of_runInv (inv_iff.mp hinv).1 (by rw [hs]; rfl)
  obtain ⟨-, -, hrem, -⟩ := (phaseInv_storedCopy hs).mp hp
  obtain ⟨n, hn⟩ : ∃ n, s.block.copyRem.toNat = n + 1 :=
    Nat.exists_eq_succ_of_ne_zero fun h0 => hrem (BitVec.eq_of_toNat_eq h0)
  rw [hn] at hin hroom ⊢
  obtain ⟨t, hrun, hcopied⟩ := run_storedCopy hinv hplaced hs hn hin hroom
  exact ⟨t, hrun, hcopied.control, hcopied.outPos, hcopied.bytePos, hcopied.bytes, hcopied.others⟩

end Sys2Proof.Machine

/-! ## The tables of fixed and dynamic blocks

Fixed table setup (44 R135), the dynamic header, its code-length fields and code-length symbols (44 R140 to R149), and
the tables of a dynamic block (44 R150, R151). -/

namespace Sys2Proof.Machine

open Sys2Proof Sys2Proof.Abstract

/-! ### BUILD by the Kraft sum -/

/-- A length array that fits the code, or that nobody checks, is built (41 R101, R104). -/
theorem build_of_fits (w : Nat) {strict : Bool} {L : List Nat} (hL : L.length ≤ 320) (hmax : ∀ x ∈ L, x ≤ 15)
    (h : strict = false ∨ kraftSum L ≤ 2 ^ 15) : build w strict L = .ok (tableOf w L) := by
  have hbuilt : buildTable w strict L ≠ none := by
    rw [ne_eq, buildFailsExactlyWhenOverSubscribed w strict L hL]
    rintro (⟨x, hx, hlong⟩ | ⟨rfl, hover⟩)
    · exact absurd (hmax x hx) (Nat.not_le.mpr hlong)
    · exact absurd (h.resolve_left (by decide)) (Nat.not_le.mpr hover)
  obtain ⟨T, hT⟩ := Option.ne_none_iff_exists'.mp hbuilt
  rw [build, hT, (buildTable_some hT).1]

theorem build_of_overSubscribed (w : Nat) {strict : Bool} {L : List Nat} (hL : L.length ≤ 320)
    (hstrict : strict = true) (h : 2 ^ 15 < kraftSum L) : build w strict L = .error (.raise .codeLengths) := by
  rw [build, (buildFailsExactlyWhenOverSubscribed w strict L hL).mpr (.inr ⟨hstrict, h⟩)]

/-- A length register of at most 4 bits holds no length above 15 (41 R102). -/
theorem toNat_length_le {n : Nat} (hn : n ≤ 4) (ls : List (BitVec n)) : ∀ x ∈ ls.map BitVec.toNat, x ≤ 15 := by
  intro x hx
  obtain ⟨b, -, rfl⟩ := List.mem_map.mp hx
  have hpow : 2 ^ n ≤ 2 ^ 4 := Nat.pow_le_pow_right (by decide) hn
  omega

theorem buildBlockTables_of_build_ok {litlen dist : List Nat} {s : State}
    (hlitlen : build 9 (strictCodes s.launch) litlen = .ok (tableOf 9 litlen))
    (hdist : build 5 (strictCodes s.launch) dist = .ok (tableOf 5 dist)) :
    buildBlockTables litlen dist s =
      .next ((s.setTables { s.tables with tLl := tableOf 9 litlen, tD := tableOf 5 dist }).setPhase .symbol) := by
  simp only [buildBlockTables, hlitlen, hdist, settle_ok]

/-- Whichever table BUILD refuses, the fault is the same (60 R278). -/
theorem buildBlockTables_of_build_error {litlen dist : List Nat} {s : State} {e : Stop}
    (h : build 9 (strictCodes s.launch) litlen = .error e ∨ build 5 (strictCodes s.launch) dist = .error e) :
    buildBlockTables litlen dist s = settle s (.error (.raise .codeLengths)) := by
  unfold buildBlockTables
  split
  · rename_i hlitlen
    rw [build_error hlitlen]
  · rename_i hlitlen
    have hdist := h.resolve_left (by simp [hlitlen])
    rw [hdist, build_error hdist]

/-! ### The fixed tables -/

theorem kraftSum_append (L M : List Nat) : kraftSum (L ++ M) = kraftSum L + kraftSum M := by
  simp only [kraftSum, List.filter_append, List.map_append, List.sum_append]

theorem kraftSum_replicate (n : Nat) {a : Nat} (h : a ≠ 0) : kraftSum (List.replicate n a) = n * 2 ^ (15 - a) := by
  simp [kraftSum, h]

theorem kraftSum_fixedLitlen : kraftSum fixedLitlenLengths = 2 ^ 15 := by
  simp (disch := decide) only [fixedLitlenLengths, kraftSum_append, kraftSum_replicate, Nat.reduceSub, Nat.reducePow,
    Nat.reduceMul, Nat.reduceAdd]

theorem kraftSum_fixedDist : kraftSum fixedDistLengths = 2 ^ 15 := by
  simp (disch := decide) only [fixedDistLengths, kraftSum_replicate, Nat.reduceSub, Nat.reducePow, Nat.reduceMul]

theorem length_fixedDistLengths : fixedDistLengths.length = 32 := List.length_replicate

theorem fixedLitlenLengths_le : ∀ x ∈ fixedLitlenLengths, x ≤ 15 := by
  simp only [fixedLitlenLengths, List.mem_append, List.mem_replicate]
  omega

theorem fixedDistLengths_le : ∀ x ∈ fixedDistLengths, x ≤ 15 := by
  simp only [fixedDistLengths, List.mem_replicate]
  omega

/-- The fixed codes are complete, so no `CFG` refuses them (44 R135). -/
theorem fixedSetup_eq (s : State) :
    fixedSetup s = .next ((s.setTables { s.tables with
      tLl := tableOf 9 fixedLitlenLengths, tD := tableOf 5 fixedDistLengths }).setPhase .symbol) :=
  buildBlockTables_of_build_ok
    (build_of_fits 9 (length_fixedLitlenLengths.trans_le (by decide)) fixedLitlenLengths_le
      (.inr kraftSum_fixedLitlen.le))
    (build_of_fits 5 (length_fixedDistLengths.trans_le (by decide)) fixedDistLengths_le (.inr kraftSum_fixedDist.le))

theorem map_toNat_counts {w : Nat} (T : HuffTable w) :
    T.counts.toList.map BitVec.toNat = (List.range 16).map (lengthCount T) := by
  refine List.ext_getElem (by simp) fun l h _ => ?_
  have hl : l < 16 := by simpa using h
  simp [lengthCount, Vector.getD, hl]

theorem counts_fixedLitlen :
    (tableOf 9 fixedLitlenLengths).counts.toList.map BitVec.toNat =
      [0, 0, 0, 0, 0, 0, 0, 24, 152, 112, 0, 0, 0, 0, 0, 0] := by
  rw [map_toNat_counts]
  simp [List.range_succ, lengthCount_tableOf_zero, lengthCount_fixedLitlen]

theorem counts_fixedDist :
    (tableOf 5 fixedDistLengths).counts.toList.map BitVec.toNat =
      [0, 0, 0, 0, 0, 32, 0, 0, 0, 0, 0, 0, 0, 0, 0, 0] := by
  rw [map_toNat_counts]
  simp [List.range_succ, lengthCount_tableOf_zero, lengthCount_fixedDist]

theorem nsym_fixedLitlen : (tableOf 9 fixedLitlenLengths).nsym = 288#9 := by
  refine BitVec.eq_of_toNat_eq ?_
  rw [nsym_tableOf 9 (length_fixedLitlenLengths.trans_lt (by decide)), sortedSymbols_fixedLitlen]
  simp

theorem nsym_fixedDist : (tableOf 5 fixedDistLengths).nsym = 32#9 := by
  refine BitVec.eq_of_toNat_eq ?_
  rw [nsym_tableOf 5 (length_fixedDistLengths.trans_lt (by decide)), sortedSymbols_fixedDist]
  simp

theorem symbols_fixedLitlen :
    (tableOf 9 fixedLitlenLengths).symbols.map BitVec.toNat =
      List.range' 256 24 ++ List.range' 0 144 ++ List.range' 280 8 ++ List.range' 144 112 := by
  rw [map_toNat_symbols_tableOf (length_fixedLitlenLengths.trans_le (by decide)), sortedSymbols_fixedLitlen]
  simp only [List.append_assoc]

theorem symbols_fixedDist : (tableOf 5 fixedDistLengths).symbols.map BitVec.toNat = List.range 32 := by
  rw [map_toNat_symbols_tableOf (length_fixedDistLengths.trans_le (by decide)), sortedSymbols_fixedDist,
    List.range_eq_range']

/-- Settles O42: the setup answers the tables of the two fixed arrays, field by field. -/
theorem fixedSetupBuildsTheFixedTables : Obligations.FixedSetupBuildsTheFixedTables := by
  intro s hs
  have hstep : step s = fixedSetup s := by simp only [step, phaseStep, hs]
  exact ⟨_, hstep.trans (fixedSetup_eq s), rfl, counts_fixedLitlen, nsym_fixedLitlen, symbols_fixedLitlen,
    counts_fixedDist, nsym_fixedDist, symbols_fixedDist, rfl⟩

/-! ### The dynamic block's tables -/

/-- A slice of `LENGTHS`, entry by entry. -/
theorem map_toNat_slice (v : Vector (BitVec 4) 320) {a n : Nat} (h : a + n ≤ 320) :
    ((v.toList.drop a).take n).map BitVec.toNat = (List.range n).map fun j => (v.getD (a + j) 0#4).toNat := by
  refine List.ext_getElem (by simp; omega) fun j _ hj => ?_
  have hlt : a + j < 320 := by simp at hj; omega
  simp [Vector.getD, hlt]

theorem litlenLengths_eq_map_range (d : Dynamic) :
    litlenLengths d = (List.range (nLl d)).map fun j => (d.lengths.getD j 0#4).toNat := by
  have hle := nLl_add_nD_le d
  have hslice := map_toNat_slice d.lengths (a := 0) (n := nLl d) (by omega)
  simpa only [litlenLengths, Nat.zero_add, List.drop_zero] using hslice

theorem distLengths_eq_map_range (d : Dynamic) :
    distLengths d = (List.range (nD d)).map fun j => (d.lengths.getD (nLl d + j) 0#4).toNat :=
  map_toNat_slice d.lengths (nLl_add_nD_le d)

/-- Settles O43: the model's slices are the two parts of `LENGTHS`, and BUILD goes by the Kraft sum of each. -/
theorem dynamicBuildSplitsTheLengths : Obligations.DynamicBuildSplitsTheLengths := by
  intro s ll d hs hll hd
  rw [← litlenLengths_eq_map_range] at hll
  rw [← distLengths_eq_map_range] at hd
  subst hll hd
  have hstep : step s = buildBlockTables (litlenLengths s.dyn) (distLengths s.dyn) s := by
    simp only [step, phaseStep, hs, dynBuild]
  have hlenLl : (litlenLengths s.dyn).length ≤ 320 := (length_litlenLengths_le s.dyn).trans (by decide)
  have hlenD : (distLengths s.dyn).length ≤ 320 := (length_distLengths_le s.dyn).trans (by decide)
  rw [hstep]
  refine ⟨fun hstrict hover => ?_, fun hfits => ?_⟩
  · rw [buildBlockTables_of_build_error
      (hover.imp (build_of_overSubscribed 9 hlenLl hstrict) (build_of_overSubscribed 5 hlenD hstrict))]
    exact raises_settle .codeLengths s
  · exact buildBlockTables_of_build_ok
      (build_of_fits 9 hlenLl (toNat_length_le le_rfl _) (hfits.imp_right And.left))
      (build_of_fits 5 hlenD (toNat_length_le le_rfl _) (hfits.imp_right And.right))

/-! ### The dynamic header and its code-length fields -/

/-- Settles O28: the header's next state, field by field. -/
theorem dynamicHeaderLatchesCounts : Obligations.DynamicHeaderLatchesCounts := by
  intro hlit hdist hclen s
  refine ⟨_, rfl, rfl, rfl, rfl, rfl, fun i hi => ?_, rfl, rfl, rfl, rfl⟩
  exact Vector.getElem?_replicate_of_lt hi

/-- The counter of the fields does not wrap (44 R142). -/
theorem clIdx_succ_toNat {d : Dynamic} (h : d.clIdx.toNat < nCode d) :
    (d.clIdx + 1#5).toNat = d.clIdx.toNat + 1 := by
  have := nCode_le d
  rw [BitVec.toNat_add, BitVec.toNat_ofNat]
  omega

theorem execClen_of_not_last {v : BitVec 3} {s : State} {sym : Nat} (hsym : clOrder[s.dyn.clIdx.toNat]? = some sym)
    (hn : (s.dyn.clIdx + 1#5).toNat ≠ nCode s.dyn) :
    execClen v s = .next (s.setDyn (clenPlaced v sym s.dyn)) := by
  simp only [execClen, hsym]
  exact if_neg hn

theorem execClen_of_last {v : BitVec 3} {s : State} {sym : Nat} {T : HuffTable 5}
    (hsym : clOrder[s.dyn.clIdx.toNat]? = some sym) (hn : (s.dyn.clIdx + 1#5).toNat = nCode s.dyn)
    (hT : build 5 (strictCodes s.launch) ((clenPlaced v sym s.dyn).clLengths.toList.map BitVec.toNat) = .ok T) :
    execClen v s = .next (((s.setDyn { clenPlaced v sym s.dyn with lenIdx := 0#9 }).setTables
      { s.tables with tCl := T }).setPhase .dynLengths) := by
  rw [clenPlaced] at hT
  simp only [execClen, hsym, hT]
  exact if_pos hn

theorem execClen_of_last_error {v : BitVec 3} {s : State} {sym : Nat} {e : Stop}
    (hsym : clOrder[s.dyn.clIdx.toNat]? = some sym) (hn : (s.dyn.clIdx + 1#5).toNat = nCode s.dyn)
    (hT : build 5 (strictCodes s.launch) ((clenPlaced v sym s.dyn).clLengths.toList.map BitVec.toNat) = .error e) :
    execClen v s = settle s (.error e) := by
  rw [clenPlaced] at hT
  simp only [execClen, hsym, hT]
  exact if_pos hn

/-- The array that differs in the field's entry only is the one the model writes. -/
theorem eq_setIfInBounds {ls old : Vector (BitVec 3) 19} {sym : Nat} {v : BitVec 3}
    (h : ∀ j < 19, ls[j]? = if j = sym then some v else old[j]?) : ls = old.setIfInBounds sym v := by
  refine Vector.ext fun j hj => ?_
  have hentry := h j hj
  rcases eq_or_ne j sym with rfl | hne
  · simpa [hj] using hentry
  · simpa [hj, hne, hne.symm] using hentry

/-- Settles O29: the counter tells the last field, and BUILD goes by the Kraft sum of the 19 lengths. -/
theorem codeLengthFieldIsPlaced : Obligations.CodeLengthFieldIsPlaced := by
  intro v s sym ls hidx hsym hls
  obtain rfl := eq_setIfInBounds hls
  have hexec : exec (.clen v) s = execClen v s := rfl
  have hnext := clIdx_succ_toNat hidx
  rw [hexec]
  refine ⟨fun hmore => execClen_of_not_last hsym (by omega), fun hlast =>
    ⟨fun hstrict hover => ?_, fun hfits => ?_⟩⟩
  · rw [execClen_of_last_error hsym (by omega) (build_of_overSubscribed 5 (by simp) hstrict hover)]
    exact raises_settle .codeLengths s
  · exact execClen_of_last hsym (by omega) (build_of_fits 5 (by simp) (toNat_length_le (by decide) _) hfits)

/-! ### Appended code lengths -/

/-- A run that ends at or below `N_LL + N_D`: `LENGTHS` has room for it and `LEN_IDX` does not wrap. -/
theorem lengthsAppended_appendLengths (v : BitVec 4) {rep : Nat} {s : State} (r : BitReader)
    (hle : s.dyn.lenIdx.toNat + rep ≤ nLl s.dyn + nD s.dyn) :
    LengthsAppended v rep s (appendLengths v rep (s.setReader r)) := by
  have hidx : (s.dyn.lenIdx + BitVec.ofNat 9 rep).toNat = s.dyn.lenIdx.toNat + rep := by
    have := nLl_add_nD_le s.dyn
    rw [BitVec.toNat_add, BitVec.toNat_ofNat]
    omega
  rw [appendLengths_eq_setPhase]
  refine ⟨fun j hj => fillLengths_getD _ v rep _ j hj, hidx, ?_, rfl⟩
  rw [← hidx]
  rfl

theorem appendLengths_reader (v : BitVec 4) (rep : Nat) (s : State) : (appendLengths v rep s).reader = s.reader := by
  rw [appendLengths_eq_setPhase]
  rfl

/-- Settles O30: one length is a run of one, and the reader stands still. -/
theorem codeLengthIsAppended : Obligations.CodeLengthIsAppended := by
  intro v s hlt
  have hexec : exec (.clLen v) s = .next (appendLengths v 1 s) :=
    if_pos (hlt.trans_le (nLl_add_nD_le s.dyn))
  exact ⟨_, hexec, lengthsAppended_appendLengths v s.reader hlt, appendLengths_reader v 1 s⟩

theorem repeatLengths_of_exhausted (v : BitVec 4) (base : Nat) {e : Nat} {s : State} (he : e ≤ 32)
    (h : Exhausted s e) : repeatLengths v base e s = .error (.raise .inputExhausted) := by
  rw [repeatLengths, readOperand_of_exhausted he h]

theorem repeatLengths_of_readable (v : BitVec 4) (base : Nat) {e : Nat} {s : State} (he : e ≤ 32)
    (h : Readable s e) :
    repeatLengths v base e s =
      if nLl s.dyn + nD s.dyn < s.dyn.lenIdx.toNat + (base + fieldAt s.launch s.bitpos e) then
        .error (.raise .repeatOverflow)
      else .ok (appendLengths v (base + fieldAt s.launch s.bitpos e)
        (s.setReader (readerAt s.launch (s.bitpos + e)))) := by
  rw [repeatLengths, readOperand_of_readable he h]

/-- A repeat READs its count first and checks the run against `N_LL + N_D` after it (44 R146 to R149). -/
theorem repeatRuns_repeatLengths (v : BitVec 4) (base : Nat) {e : Nat} (he : e ≤ 32) (s : State) :
    RepeatRuns v base e s (settle s (repeatLengths v base e s)) := by
  refine ⟨fun hends => ?_, fun hreads hover => ?_, fun hreads hfits => ?_⟩
  · rw [repeatLengths_of_exhausted v base he hends]
    exact raises_settle .inputExhausted s
  · rw [repeatLengths_of_readable v base he hreads, if_pos hover]
    exact raises_settle .repeatOverflow s
  · rw [repeatLengths_of_readable v base he hreads, if_neg (Nat.not_lt.mpr hfits), settle_ok]
    exact ⟨_, rfl, lengthsAppended_appendLengths v _ hfits, appendLengths_reader v _ _⟩

theorem previousLength_eq {d : Dynamic} {v : BitVec 4} (h : d.lengths[d.lenIdx.toNat - 1]? = some v) :
    previousLength d = v := by
  obtain ⟨hlt, rfl⟩ := Vector.getElem?_eq_some_iff.mp h
  simp [previousLength, Vector.getD, hlt]

/-- Settles O31: the check for a previous length comes first; the rest is a repeat of that length. -/
theorem repeatPreviousLength : Obligations.RepeatPreviousLength := by
  intro s
  have hexec : exec .cl16 s = settle s (if s.dyn.lenIdx = 0#9 then .error (.raise .repeatNoPrev)
      else repeatLengths (previousLength s.dyn) 3 2 s) := rfl
  rw [hexec]
  refine ⟨fun hzero => ?_, fun v hpos hprev => ?_⟩
  · rw [if_pos hzero]
    exact raises_settle .repeatNoPrev s
  · rw [if_neg hpos, previousLength_eq hprev]
    exact repeatRuns_repeatLengths v 3 (by decide) s

/-- Settles O32: both symbols are repeats of the length 0. -/
theorem repeatZeroLength : Obligations.RepeatZeroLength := fun s =>
  ⟨repeatRuns_repeatLengths 0#4 3 (by decide) s, repeatRuns_repeatLengths 0#4 11 (by decide) s⟩

end Sys2Proof.Machine

/-! ## Dynamic symbols and the match copy

The symbols of a dynamic block do what their numbers do, as their fixed forms do (45 R161, R162, R165, R166), and the
copy of a match in full (45 R164). -/

namespace Sys2Proof.Machine

open Sys2Proof

/-- Settles O33: the literal's number is its byte. -/
theorem literalIsAppended : Obligations.LiteralIsAppended := by
  intro b s
  have hnumber : litlenNumber (.lit b) = some b.toNat := by
    have hwidth : (b.setWidth 9).toNat = b.toNat := BitVec.toNat_setWidth_of_le (by decide)
    exact congrArg some hwidth
  have hruns := literalRuns_runLitlen b.isLt s
  rwa [BitVec.ofNat_toNat, BitVec.setWidth_eq, ← exec_eq_runLitlen hnumber] at hruns

/-- Settles O34: `EOB` is symbol 256. -/
theorem endOfBlockSelectsNextPhase : Obligations.EndOfBlockSelectsNextPhase := by
  intro s
  rw [exec_eq_runLitlen (n := 256) rfl]
  exact blockEnded_runLitlen s

theorem raises_runLitlen_reserved {n : Nat} (h : n = 286 ∨ n = 287) (s : State) :
    Raises .litlenSymbol s (runLitlen n s) := by
  rw [runLitlen_reserved h]
  exact raises_settle _ s

theorem raises_runDist_reserved {n : Nat} (h : n = 30 ∨ n = 31) (s : State) :
    Raises .distSymbol s (runDist n s) := by
  rw [runDist_reserved h]
  exact raises_settle _ s

/-- Settles O37: the four instructions are the reserved symbols 286, 287, 30 and 31. -/
theorem reservedSymbolsFault : Obligations.ReservedSymbolsFault := by
  intro s
  rw [exec_eq_runLitlen (n := 286) rfl, exec_eq_runLitlen (n := 287) rfl, exec_eq_runDist (n := 30) rfl,
    exec_eq_runDist (n := 31) rfl]
  exact ⟨raises_runLitlen_reserved (.inl rfl) s, raises_runLitlen_reserved (.inr rfl) s,
    raises_runDist_reserved (.inl rfl) s, raises_runDist_reserved (.inr rfl) s⟩

/-- Settles O46: a copy with room repeats the history, and a copy writes the output and the checksum only. -/
theorem matchCopyRepeatsTheHistory : Obligations.MatchCopyRepeatsTheHistory := by
  intro distance k s h1 hd hw hroom
  obtain ⟨t, ht, hcopied⟩ := copyMatch_of_room hw h1 hd hroom
  have hframe : { t with out := s.out, adler := s.adler } = s := by
    rw [copyMatch_frame ht]
    rfl
  exact ⟨t, ht, hcopied, hframe⟩

end Sys2Proof.Machine

/-! ## The driver

What `START`, `ZHDR`, the size check and the trailer do (46 R240 to R249). -/

namespace Sys2Proof.Machine

open Sys2Proof

/-! ### START -/

/-- START takes over the launch parameters and the number of the next draw, and nothing else (46 R240, log 10). -/
theorem start_congr {s s' : State} (hl : s'.launch = s.launch) (hn : s'.freeCount = s.freeCount) :
    start s' = start s := by
  simp only [start, hl, hn]

theorem hostWrite_ctrl_of_not_busy {v : BitVec 32} {s : State} (hb : s.control.status ≠ .busy)
    (hv : v.getLsbD 0 = true) : hostWrite .ctrl v s = .next (start s) := by
  simp [hostWrite, hv, hb]

theorem hostWrite_ctrl_of_ignored {v : BitVec 32} {s : State} (h : s.control.status = .busy ∨ v.getLsbD 0 = false) :
    hostWrite .ctrl v s = .next s := by
  rcases h with hb | hv
  · simp [hostWrite, hb]
  · simp only [hostWrite, hv, Bool.false_and, Bool.false_eq_true, if_false]

/-- Settles O20: a write of 1 at rest is `start`, which forgets the previous run. -/
theorem startBeginsARun : Obligations.StartBeginsARun := by
  refine fun s v => ⟨fun hb hv => ?_, hostWrite_ctrl_of_ignored⟩
  refine ⟨start s, hostWrite_ctrl_of_not_busy hb hv, rfl, rfl, rfl, rfl, rfl, rfl, fun s' hb' hl hn => ?_⟩
  rw [hostWrite_ctrl_of_not_busy hb' hv, start_congr hl hn]

/-! ### The zlib header -/

/-- The second of two fields side by side is the low one. -/
theorem toNat_append_eq_add {w v : Nat} (x : BitVec w) (y : BitVec v) :
    (x ++ y).toNat = x.toNat * 2 ^ v + y.toNat := by
  rw [BitVec.toNat_append, Nat.shiftLeft_eq, Nat.mul_comm, ← Nat.two_pow_add_eq_or_of_lt y.isLt]

theorem toNat_cmfOf (cm cinfo : BitVec 4) : (cmfOf cm cinfo).toNat = cm.toNat + 16 * cinfo.toNat := by
  rw [cmfOf, toNat_append_eq_add]
  omega

theorem toNat_flgOf (fcheck : BitVec 5) (fdict : BitVec 1) (flevel : BitVec 2) :
    (flgOf fcheck fdict flevel).toNat = fcheck.toNat + 32 * fdict.toNat + 64 * flevel.toNat := by
  rw [flgOf, toNat_append_eq_add, toNat_append_eq_add]
  omega

/-- Settles O24: the checks of `execZhdr` in their order, over `CMF` and `FLG` as numbers. -/
theorem zlibHeaderChecks : Obligations.ZlibHeaderChecks := by
  intro cm cinfo fcheck fdict flevel s cmf flg hcmf hflg
  rw [← toNat_cmfOf] at hcmf
  rw [← toNat_flgOf] at hflg
  subst hcmf hflg
  simp only [exec, execZhdr]
  refine ⟨fun hcm => ?_, fun hcm hcheck => ?_, fun hcm hcheck hdict => ?_, fun hcm hcheck hdict => ?_⟩
  · rw [if_pos hcm]
    exact raises_settle .zlibMethod s
  · rw [if_neg (not_not.mpr hcm), if_pos hcheck]
    exact raises_settle .zlibFcheck s
  · rw [if_neg (not_not.mpr hcm), if_neg (not_not.mpr hcheck), if_pos hdict]
    exact raises_settle .zlibFdict s
  · rw [if_neg (not_not.mpr hcm), if_neg (not_not.mpr hcheck), if_neg (by simp [hdict])]
    rfl

/-! ### The size check -/

theorem step_endCheck {s : State} (hs : s.control.phase = .endCheck) : step s = endCheck s := by
  simp only [step, phaseStep, hs]

/-- Settles O44: the step of `PH_END_CHECK` is the size check. -/
theorem sizeCheckBeforeTheTrailer : Obligations.SizeCheckBeforeTheTrailer := by
  intro s hs
  rw [step_endCheck hs, endCheck]
  refine ⟨fun hpos => ?_, fun hpos => ?_⟩
  · rw [if_pos hpos]
    exact raises_settle .sizeMismatch s
  · rw [if_neg (not_not.mpr hpos)]
    rfl

/-! ### The trailer -/

/-- The first trailer byte is the most significant (46 R248). -/
theorem toNat_trailerValue (b0 b1 b2 b3 : BitVec 8) :
    (trailerValue b0 b1 b2 b3).toNat = ((b0.toNat * 256 + b1.toNat) * 256 + b2.toNat) * 256 + b3.toNat := by
  simp only [trailerValue, toNat_append_eq_add, Nat.reducePow]

/-- The comparison of the trailer in arithmetic (46 R249). -/
theorem trailerValue_eq_checksum_iff (b0 b1 b2 b3 : BitVec 8) (c : Adler) :
    trailerValue b0 b1 b2 b3 = checksum c ↔
      ((b0.toNat * 256 + b1.toNat) * 256 + b2.toNat) * 256 + b3.toNat = c.b.toNat * 65536 + c.a.toNat := by
  rw [← BitVec.toNat_inj, toNat_trailerValue, toNat_checksum]

theorem execAdler32_of_ne {b0 b1 b2 b3 : BitVec 8} {s : State} (h : trailerValue b0 b1 b2 b3 ≠ checksum s.adler) :
    execAdler32 b0 b1 b2 b3 s = settle s (.error (.raise .adlerMismatch)) :=
  congrArg (settle s) (if_pos h)

theorem execAdler32_of_eq {b0 b1 b2 b3 : BitVec 8} {s : State} (h : trailerValue b0 b1 b2 b3 = checksum s.adler) :
    execAdler32 b0 b1 b2 b3 s = .next (s.setControl { s.control with phase := .done, status := .done }) :=
  congrArg (settle s) (if_neg (not_not.mpr h))

/-- Settles O41: the trailer's check is the comparison of the two numbers. -/
theorem trailerEndsTheRun : Obligations.TrailerEndsTheRun := by
  rintro b0 b1 b2 b3 s t rfl
  rw [ne_eq, ← trailerValue_eq_checksum_iff]
  refine ⟨fun hne => ?_, fun heq => execAdler32_of_eq heq⟩
  have hraise : exec (.adler32 b0 b1 b2 b3) s = settle s (.error (.raise .adlerMismatch)) := execAdler32_of_ne hne
  rw [hraise]
  exact raises_settle .adlerMismatch s

end Sys2Proof.Machine

/-! ## The checksum in closed form

The two sums of the Adler-32 loop, by how often each byte is counted (46 R251, R252). -/

namespace Sys2Proof.Machine

open Sys2Proof Sys2Proof.Abstract

/-- The sum that `ADLER_B` adds up: the first byte counts once for each byte of the string, the last byte once. -/
def weightedSum (d : List Byte) : Nat :=
  ((List.range d.length).map fun i => (d.length - i) * (d.getD i 0#8).toNat).sum

theorem weightedSum_cons (b : Byte) (d : List Byte) :
    weightedSum (b :: d) = (d.length + 1) * b.toNat + weightedSum d := by
  simp [weightedSum, List.range_succ_eq_map, Function.comp_def]

/-- The loop from `(a, b)` modulo 65521: each round adds `a`, and so every byte before it, to the second sum. -/
theorem adlerLoop_modEq (a b : Nat) (d : List Byte) :
    (adlerLoop (a, b) d).1 ≡ a + (d.map BitVec.toNat).sum [MOD 65521] ∧
      (adlerLoop (a, b) d).2 ≡ b + d.length * a + weightedSum d [MOD 65521] := by
  induction d generalizing a b with
  | nil => simp [adlerLoop, weightedSum, Nat.ModEq.refl]
  | cons x d ih =>
    obtain ⟨ha, hb⟩ := ih ((a + x.toNat) % 65521) ((b + (a + x.toNat) % 65521) % 65521)
    have hmod : (a + x.toNat) % 65521 ≡ a + x.toNat [MOD 65521] := Nat.mod_modEq _ _
    refine ⟨ha.trans ?_, hb.trans ?_⟩
    · rw [List.map_cons, List.sum_cons, ← Nat.add_assoc]
      exact hmod.add_right _
    · have hround : (b + (a + x.toNat) % 65521) % 65521 ≡ b + (a + x.toNat) [MOD 65521] :=
        (Nat.mod_modEq _ _).trans (hmod.add_left b)
      have hsum := (hround.add (hmod.mul_left d.length)).add_right (weightedSum d)
      rw [weightedSum_cons, List.length_cons]
      convert hsum using 1
      ring

/-- The registers hold the checksum of the string folded into them. -/
theorem checksum_foldl_adlerStep (d : List Byte) :
    checksum (d.foldl adlerStep { a := 1#16, b := 0#16 }) = adler32Of d := by
  induction d using List.reverseRecOn with
  | nil => exact checksum_initial
  | append_singleton d b ih =>
    rw [List.foldl_append]
    exact checksum_adlerStep b ih

/-- Settles O47: the registers hold the loop's two sums, which are below the modulus. -/
theorem checksumClosedForm : Obligations.ChecksumClosedForm := by
  rintro d c rfl
  have hsum := checksum_foldl_adlerStep d
  obtain ⟨ha, hb⟩ := checksum_eq_adler32Of_iff.mp hsum
  obtain ⟨hlta, hltb⟩ := adlerLoop_lt (1, 0) (by decide) d
  obtain ⟨hmoda, hmodb⟩ := adlerLoop_modEq 1 0 d
  rw [Nat.zero_add, Nat.mul_one] at hmodb
  refine ⟨hsum, ?_, ?_⟩
  · rw [ha, ← Nat.mod_eq_of_lt hlta]
    exact hmoda
  · rw [hb, ← Nat.mod_eq_of_lt hltb]
    exact hmodb

end Sys2Proof.Machine

/-! ## The phases

Each effect's phase is in the transition table (46 R246); the launch parameters and the pending length over a step
(10_state R11, 45 R163). -/

namespace Sys2Proof.Machine

open Sys2Proof

/-! ### The phase after an effect -/

/-- Every phase that executes an element can fault (46 R246). -/
theorem fault_mem_successors {p : Phase} (hrest : atRest p = false) (hfree : bitFree p = false) :
    Phase.fault ∈ successors p := by
  cases p <;> simp_all [atRest, bitFree, successors]

/-- A block ends in one of three phases, each followed by the next header or by the size check (43 R123). -/
theorem phaseAfterBlock_mem_successors {p : Phase} (hp : p ∈ [Phase.storedHdr, .storedCopy, .symbol]) (b : Block) :
    phaseAfterBlock b ∈ successors p := by
  unfold phaseAfterBlock
  simp only [List.mem_cons, List.not_mem_nil, or_false] at hp
  rcases hp with rfl | rfl | rfl <;> split <;> simp [successors]

theorem appendLengths_phase_mem_successors (v : BitVec 4) (rep : Nat) {s : State} (hs : s.control.phase = .dynLengths) :
    (appendLengths v rep s).control.phase ∈ successors .dynLengths := by
  rw [appendLengths_eq_setPhase]
  split <;> simp [successors, hs]

/-- An element's effect leads to a phase that the table lists for the phase of the element. -/
theorem effect_phase_mem_successors {s t : State} {i : Instr} (h : Effect s i t) (ha : admits s.ctx i = true)
    (hrest : atRest s.control.phase = false) (hfree : bitFree s.control.phase = false) :
    t.control.phase ∈ successors s.control.phase := by
  have of_word {p : Phase} (hi : wordPhase i = some p) : s.control.phase = p := phase_of_wordPhase ha hi
  have of_cl (hi : isClSymbol i = true) : s.control.phase = .dynLengths := phase_of_isClSymbol ha hi
  have of_litlen {n : Nat} (hi : litlenNumber i = some n) : s.control.phase = .symbol :=
    (phase_of_litlenNumber ha hi).1
  have of_dist {n : Nat} (hi : distNumber i = some n) : s.control.phase = .symbol := (phase_of_distNumber ha hi).1
  cases h with
  | fault e he => exact fault_mem_successors hrest hfree
  | zhdr hi => simp [of_word hi, successors]
  | block bfinal btype p hi hp =>
    simp only [List.mem_cons, Prod.mk.injEq, List.not_mem_nil, or_false] at hp
    rw [of_word hi]
    rcases hp with ⟨-, rfl⟩ | ⟨-, rfl⟩ | ⟨-, rfl⟩ <;> simp [latchBlock, successors]
  | storedHdr len nlen hi =>
    rw [of_word hi]
    split
    · exact phaseAfterBlock_mem_successors (by simp) _
    · simp [successors]
  | storedByte b s' hi happ =>
    have hs' : s'.control.phase = .storedCopy := by rw [outAppend_frame happ]; exact of_word hi
    rw [of_word hi, countStored_eq]
    split
    · exact phaseAfterBlock_mem_successors (by simp) _
    · simp [hs', successors]
  | dynHdr hlit hdist hclen hi => simp [of_word hi, successors]
  | clen v sym hi hs hn => simp [of_word hi, successors]
  | clenLast v sym hi => simp [of_word hi, successors]
  | oneLength v hi =>
    rw [of_cl hi]
    exact appendLengths_phase_mem_successors v 1 (of_cl hi)
  | repeated v base e x r hi hx he hr hle =>
    rw [of_cl hi]
    exact appendLengths_phase_mem_successors v (base + x) (by exact of_cl hi)
  | literal b t n hi happ =>
    rw [outAppend_frame happ]
    simp [of_litlen hi, successors]
  | endOfBlock n hi =>
    rw [of_litlen hi]
    exact phaseAfterBlock_mem_successors (by simp) _
  | length n len e x r hi hn he hr => simp [of_litlen hi, successors]
  | distance n distance e x len r t hi hm he hr hc =>
    rw [copyMatch_frame hc]
    simp [of_dist hi, successors]
  | trailer hi => simp [of_word hi, successors]

/-! ### Over a step -/

/-- What a step may do to the phase and must leave alone: the first two clauses of O57. -/
def Follows (s t : State) : Prop :=
  t.control.phase ∈ successors s.control.phase ∧ t.launch = s.launch

/-- No instruction writes a launch parameter (10_state R11). -/
theorem exec_launch {i : Instr} {s t : State} (h : exec i s = .next t) : t.launch = s.launch := by
  rcases registersHaveOneWriter i s t h with ⟨e, rfl⟩ | ⟨hl, -⟩
  · rfl
  · exact hl

/-- Half a step or a whole one. -/
theorem fetchExec_follows {s t : State} (h : fetchExec s = .next t) (hrest : atRest s.control.phase = false)
    (hfree : bitFree s.control.phase = false) : Follows s t := by
  rcases fetchExec_next h with ⟨i, s', hf, he⟩ | ⟨e, rfl⟩
  · have ha := fetch_admits hf
    have hl := exec_launch he
    obtain ⟨r, -, rfl⟩ := fetch_ok hf
    exact ⟨effect_phase_mem_successors (s := s.setReader r) (exec_effect he) ha hrest hfree, hl⟩
  · exact ⟨fault_mem_successors hrest hfree, rfl⟩

/-- One stream element: between the halves of a match the phase is `PH_SYMBOL` still, and the second half uses the
pending length up. -/
theorem elementStep_follows {s t : State} (h : elementStep s = .next t) (hrest : atRest s.control.phase = false)
    (hfree : bitFree s.control.phase = false) : Follows s t ∧ (s.matchLen = none → t.matchLen = none) := by
  rcases elementStep_next h with ⟨hone, hnone⟩ | ⟨s', hfirst, hm, hpend, hsecond⟩
  · exact ⟨fetchExec_follows hone hrest hfree, hnone⟩
  · obtain ⟨hs, r, heq⟩ := fetchExec_pending hfirst hm hpend
    have hcontrol : s'.control = s.control := by rw [heq]; rfl
    have hlaunch : s'.launch = s.launch := by rw [heq]; rfl
    have hfollows := fetchExec_follows hsecond (by rwa [hcontrol]) (by rwa [hcontrol])
    rw [Follows, hcontrol, hlaunch] at hfollows
    exact ⟨hfollows, fun _ => fetchExec_uses_pending hsecond (by rw [hcontrol, hs]) hpend⟩

/-- Settles O57: by the kinds of steps; the fixed tables are built without a fault. -/
theorem phasesFollowTheTable : Obligations.PhasesFollowTheTable := by
  intro s t h
  rcases step_cases h with ⟨hrest, rfl⟩ | ⟨hs, h⟩ | ⟨hs, h⟩ | ⟨hs, h⟩ | ⟨hrest, hfree, h⟩
  · refine ⟨?_, rfl, id⟩
    cases hs : t.control.phase <;> simp_all [atRest, successors]
  · rw [fixedSetup_eq] at h
    cases h
    exact ⟨by simp [hs, successors], rfl, id⟩
  · rcases buildBlockTables_next h with rfl | rfl
    · exact ⟨by simp [hs, successors], rfl, id⟩
    · exact ⟨by simp [hs, successors], rfl, fun _ => rfl⟩
  · rcases endCheck_next h with ⟨-, rfl⟩ | rfl
    · exact ⟨by simp [hs, successors], rfl, id⟩
    · exact ⟨by simp [hs, successors], rfl, fun _ => rfl⟩
  · obtain ⟨⟨hphase, hlaunch⟩, hpending⟩ := elementStep_follows h hrest hfree
    exact ⟨hphase, hlaunch, hpending⟩

end Sys2Proof.Machine

/-! ## A run that ends well

The bytes the trailer's fetch took stand aligned in the input, and `DONE` follows a trailer that agrees only (46 R247 to
R250). -/

namespace Sys2Proof.Machine

open Sys2Proof Sys2Proof.Abstract

/-! ### READs of whole bytes -/

/-- The bit reader stands before byte `p` of the input, and holds no bit. -/
structure AtByte (l : Launch) (p : Nat) (r : BitReader) : Prop where
  inv : ReaderInv l r
  noBits : r.bitCount = 0#6
  pos : r.bytePos.toNat = p

/-- `BYTE_POS` as a function of `bitpos` (40 R94). -/
theorem bytePosAt_readerPos {l : Launch} {r : BitReader} (h : ReaderInv l r) :
    bytePosAt (readerPos r) = r.bytePos.toNat := by
  have h7 : r.bitCount.toNat ≤ 7 := h.2.1
  have hpulled := (held_of_readerInv h).pulled
  simp only [bytePosAt, readerPos]
  omega

/-- ALIGN goes to the next byte that is not pulled yet (40 R93). -/
theorem atByte_alignReader {l : Launch} {r : BitReader} (h : ReaderInv l r) :
    AtByte l (bytePosAt (readerPos r)) (alignReader r) := by
  obtain ⟨hinv, -, hdvd⟩ := alignReader_readerInv h
  exact ⟨hinv, bitCount_eq_zero hinv hdvd, (bytePosAt_readerPos h).symm⟩

/-- From a byte boundary a READ of 8 bits that answers took the byte that stands there (40 R91). -/
theorem readBits_byte_ok {l : Launch} {p v : Nat} {r r' : BitReader} (h : AtByte l p r)
    (hread : readBits l 8 r = .ok (v, r')) :
    AtByte l (p + 1) r' ∧ ∃ b : Byte, memRead l.inMem p = some b ∧ v = b.toNat := by
  obtain ⟨hinv, hzero, rfl⟩ := h
  have hcount : r.bitCount.toNat = 0 := by rw [hzero]; rfl
  obtain ⟨hinv', hpos'⟩ := readBits_readerInv (by decide) hinv hread
  have hnone : r'.bitCount = 0#6 := by
    have hdvd := dvd_readerPos hzero
    exact bitCount_eq_zero hinv' (by omega)
  have hbyte' : r'.bytePos.toNat = r.bytePos.toNat + 1 := by
    simp only [readerPos, hnone, hcount, BitVec.toNat_ofNat] at hpos'
    omega
  refine ⟨⟨hinv', hnone, hbyte'⟩, ?_⟩
  obtain ⟨q, hq, rfl, -⟩ := readBits_ok hread
  have hin : r.bytePos.toNat < l.inLen.toNat := by
    have hle : r'.bytePos.toNat ≤ l.inLen.toNat := hinv'.1
    omega
  cases hb : memRead l.inMem r.bytePos.toNat with
  | none => simp [pullBytes, hcount, Nat.not_le.mpr hin, hb] at hq
  | some b =>
    have henough := pulledByte_bitCount (r := r) b (by omega)
    rw [pullBytes_succ l 8 7 r (by omega) hin b hb] at hq
    cases (pullBytes_enough l 8 7 (pulledByte b r) (by omega)).symm.trans hq
    have hbuf := pulledByte_bitBuf (r := r) b (by omega) (held_of_readerInv hinv).fits
    have hempty := (held_of_readerInv hinv).fits
    rw [hcount] at hbuf hempty
    exact ⟨b, rfl, by omega⟩

/-- A program that READs a byte from a byte boundary and answers: the byte, and the rest of the program. -/
theorem runProg_readByte_ok {α : Type} {l : Launch} {p : Nat} {k : Nat → BitProg α} {r : BitReader}
    {x : α × BitReader} (h : AtByte l p r) (hrun : runProg l (.read 8 k) r = .ok x) :
    ∃ (b : Byte) (q : BitReader), memRead l.inMem p = some b ∧ AtByte l (p + 1) q ∧
      runProg l (k b.toNat) q = .ok x := by
  simp only [runProg] at hrun
  split at hrun
  · rename_i v q hq
    obtain ⟨hat, b, hb, rfl⟩ := readBits_byte_ok h hq
    exact ⟨b, q, hb, hat, hrun⟩
  · cases hrun

/-! ### The trailer -/

/-- The four bytes stand in the input from byte `p` on. -/
def BytesAt (l : Launch) (p : Nat) (b0 b1 b2 b3 : Byte) : Prop :=
  memRead l.inMem p = some b0 ∧ memRead l.inMem (p + 1) = some b1 ∧ memRead l.inMem (p + 2) = some b2 ∧
    memRead l.inMem (p + 3) = some b3

/-- In `PH_TRAILER` the fetch takes the next four aligned bytes (46 R248). -/
theorem fetch_trailer {s s' : State} {i : Instr} (hs : s.control.phase = .trailer) (hr : ReaderInv s.launch s.reader)
    (h : fetch s = .ok (i, s')) :
    ∃ (b0 b1 b2 b3 : Byte) (r : BitReader), i = .adler32 b0 b1 b2 b3 ∧ s' = s.setReader r ∧
      AtByte s.launch (bytePosAt s.bitpos + 4) r ∧ BytesAt s.launch (bytePosAt s.bitpos) b0 b1 b2 b3 := by
  obtain ⟨r, hrun, rfl⟩ := fetch_ok h
  simp only [elementProg, State.ctx, hs, adler32Prog] at hrun
  rw [runProg] at hrun
  obtain ⟨b0, q0, hb0, hq0, hrun⟩ := runProg_readByte_ok (atByte_alignReader hr) hrun
  obtain ⟨b1, q1, hb1, hq1, hrun⟩ := runProg_readByte_ok hq0 hrun
  obtain ⟨b2, q2, hb2, hq2, hrun⟩ := runProg_readByte_ok hq1 hrun
  obtain ⟨b3, q3, hb3, hq3, hrun⟩ := runProg_readByte_ok hq2 hrun
  simp only [BitVec.ofNat_toNat, BitVec.setWidth_eq] at hrun
  cases hrun
  exact ⟨b0, b1, b2, b3, r, rfl, rfl, hq3, hb0, hb1, hb2, hb3⟩

/-- The trailer ends the run only where it agrees with the checksum (46 R249). -/
theorem execAdler32_done {b0 b1 b2 b3 : Byte} {s t : State} (h : execAdler32 b0 b1 b2 b3 s = .next t)
    (hd : t.control.status = .done) :
    trailerValue b0 b1 b2 b3 = checksum s.adler ∧
      t = s.setControl { s.control with phase := .done, status := .done } := by
  by_cases heq : trailerValue b0 b1 b2 b3 = checksum s.adler
  · rw [execAdler32_of_eq heq] at h
    cases h
    exact ⟨heq, rfl⟩
  · rw [execAdler32_of_ne heq] at h
    cases h
    cases hd

/-- In `PH_TRAILER` a step is the trailer's fetch and check: there is no second half. -/
theorem fetchExec_of_step_trailer {s t : State} (hs : s.control.phase = .trailer) (h : step s = .next t) :
    fetchExec s = .next t := by
  rw [step_eq_elementStep (by rw [hs]; rfl) (by rw [hs]; rfl)] at h
  rcases elementStep_next h with ⟨hone, -⟩ | ⟨s', hfirst, hm, hpend, -⟩
  · exact hone
  · obtain ⟨hsymbol, -⟩ := fetchExec_pending hfirst hm hpend
    simp [hs] at hsymbol

theorem phaseInv_trailer {s : State} (h : s.control.phase = .trailer) :
    PhaseInv s ↔ s.block.bfinal = 1#1 ∧ s.out.outPos = s.launch.expectedLen := by
  simp only [PhaseInv, h]

/-- `DONE` follows `PH_TRAILER` only, by the transition table (46 R246, R250). -/
theorem trailer_of_step_done {s t : State} (hinv : Inv s) (hb : s.control.status = .busy) (h : step s = .next t)
    (hd : t.control.status = .done) : s.control.phase = .trailer := by
  obtain ⟨-, -, ⟨-, hdone, -⟩, -⟩ := everyStepKeepsTheInvariant s t hinv h
  obtain ⟨hnext, -⟩ := phasesFollowTheTable s t h
  obtain ⟨-, -, hc, -⟩ := hinv
  have hrest := atRest_eq_false hc hb
  rw [hdone.mp hd] at hnext
  cases hs : s.control.phase <;> simp_all [successors, atRest]

/-- Settles O59: `DONE` comes from `PH_TRAILER`, where the size agrees and the checksum is the output's; the fetch gives
the bytes compared. -/
theorem doneMeansVerified : Obligations.DoneMeansVerified := by
  intro s t hinv hb h hd
  have hs := trailer_of_step_done hinv hb h hd
  obtain ⟨hl, hp⟩ := live_of_runInv (inv_iff.mp hinv).1 (by rw [hs]; rfl)
  obtain ⟨-, hsize⟩ := (phaseInv_trailer hs).mp hp
  obtain ⟨-, haddr, hsum⟩ := hl.output
  rcases fetchExec_next (fetchExec_of_step_trailer hs h) with ⟨i, s', hf, he⟩ | ⟨e, rfl⟩
  · obtain ⟨b0, b1, b2, b3, r, rfl, rfl, hr, hb0, hb1, hb2, hb3⟩ := fetch_trailer hs hl.reader hf
    obtain ⟨hcheck, rfl⟩ := execAdler32_done he hd
    exact ⟨hs, hl.noErr, rfl, hsize, hsize ▸ haddr, hr.noBits, hr.pos, b0, b1, b2, b3, hb0, hb1, hb2, hb3,
      hcheck.trans hsum⟩
  · cases hd

end Sys2Proof.Machine

/-! ## Faults of the fetch, and the entry of a fault

An element of fixed width is a program whose READs have the same total width whatever they bring; it answers only where
the input holds that many bits (60 R272, R288). -/

namespace Sys2Proof.Machine

open Sys2Proof Sys2Proof.Abstract

/-- Settles O18: a raised fault is taken whatever its code and whatever the state. -/
theorem faultEntrySetsErrStatusPhase : Obligations.FaultEntrySetsErrStatusPhase := raises_settle

/-! ### Programs of fixed width -/

/-- The program answers after READs of `w` bits in all, whatever they bring, and has no ALIGN. -/
def HasWidth {α : Type} : BitProg α → Nat → Prop
  | .done _, w => w = 0
  | .reject _, _ => False
  | .read n k, w => n ≤ w ∧ ∀ v, HasWidth (k v) (w - n)
  | .align _, _ => False

/-- One of the READs lacks a bit where the stream is shorter than the program is wide (40 R91). -/
theorem runBits_of_length_lt_width {α : Type} {p : BitProg α} {w pos : Nat} {bits : List Bool} (hp : HasWidth p w)
    (hshort : bits.length < w) : p.runBits pos bits = .error .inputExhausted := by
  induction p generalizing w pos bits with
  | done a => cases hp; exact absurd hshort (Nat.not_lt_zero _)
  | reject e => exact hp.elim
  | read n k ih =>
    obtain ⟨hn, hk⟩ := hp
    by_cases hin : n ≤ bits.length
    · rw [BitProg.runBits, if_pos hin]
      exact ih _ (hk _) (by rw [List.length_drop]; omega)
    · rw [BitProg.runBits, if_neg hin]
  | align k ih => exact hp.elim

/-- The widths of the elements that are not aligned (30_encoding R61, R62, R64, R65; 43 R127), and their phases execute
an element. -/
theorem hasWidth_elementProg {p : Phase} {n : Nat}
    (h : (p, n) ∈ [(Phase.zhdr, 16), (.blockHdr, 3), (.storedCopy, 8), (.dynHdr, 14), (.dynClen, 3)]) :
    atRest p = false ∧ bitFree p = false ∧ ∀ c : DecodeCtx, c.phase = p → HasWidth (elementProg c) n := by
  simp only [List.mem_cons, Prod.mk.injEq, List.not_mem_nil, or_false] at h
  rcases h with ⟨rfl, rfl⟩ | ⟨rfl, rfl⟩ | ⟨rfl, rfl⟩ | ⟨rfl, rfl⟩ | ⟨rfl, rfl⟩
  all_goals
    refine ⟨rfl, rfl, fun c hc => ?_⟩
    simp [elementProg, hc, HasWidth, zhdrProg, blockProg, storedByteProg, dynHdrProg, clenProg]

/-- The stored header and the trailer are 32 bits wide after their ALIGN (30_encoding R63, R77), and their phases
execute an element. -/
theorem elementProg_aligned {p : Phase} (h : p = .storedHdr ∨ p = .trailer) :
    atRest p = false ∧ bitFree p = false ∧
      ∀ c : DecodeCtx, c.phase = p → ∃ q, elementProg c = .align q ∧ HasWidth q 32 := by
  rcases h with rfl | rfl
  all_goals
    refine ⟨rfl, rfl, fun c hc => ?_⟩
    simp [elementProg, hc, HasWidth, storedHdrProg, adler32Prog]

/-! ### The step -/

/-- An element that the decoder finds truncated in the stream raises its fault in the step (60 R272, R288). -/
theorem raises_step_of_runBits_exhausted {s : State} (hr : ReaderInv s.launch s.reader) (hplaced : InputPlaced s.launch)
    (hrest : atRest s.control.phase = false) (hfree : bitFree s.control.phase = false)
    (h : (elementProg s.ctx).runBits s.bitpos (streamFrom s.launch s.bitpos) = .error .inputExhausted) :
    Raises .inputExhausted s (step s) := by
  have hfetch : fetch s = .error (.raise .inputExhausted) := by
    rw [fetchDecodesTheStream s hr hplaced, h]
    rfl
  exact raises_step_of_fetch_raise hrest hfree hfetch

/-- The padding ALIGN drops leads to the next byte boundary (40 R93, R94). -/
theorem add_padding_eq_alignedPos (pos : Nat) : pos + (8 - pos % 8) % 8 = alignedPos pos := by
  rw [alignedPos, bytePosAt]
  omega

/-- Settles O14: the phase's program is wider than the rest of the stream, counted after ALIGN where it begins with
one. -/
theorem truncatedElementFaults : Obligations.TruncatedElementFaults := by
  intro s hr hplaced
  have hpos : s.bitpos ≤ 8 * s.launch.inLen.toNat := readerPos_le hr
  refine ⟨fun p n hmem hs hshort => ?_, fun hs hshort => ?_⟩
  · obtain ⟨hrest, hfree, hwidth⟩ := hasWidth_elementProg hmem
    refine raises_step_of_runBits_exhausted hr hplaced (hs ▸ hrest) (hs ▸ hfree) ?_
    exact runBits_of_length_lt_width (hwidth s.ctx hs) (by rw [length_streamFrom]; omega)
  · obtain ⟨hrest, hfree, haligned⟩ := elementProg_aligned hs
    obtain ⟨q, hprog, hwidth⟩ := haligned s.ctx rfl
    refine raises_step_of_runBits_exhausted hr hplaced hrest hfree ?_
    rw [hprog, BitProg.runBits, drop_streamFrom, add_padding_eq_alignedPos]
    exact runBits_of_length_lt_width hwidth (by rw [length_streamFrom]; omega)

end Sys2Proof.Machine

/-! ## Reset, and the end of a run

What reset leaves (70 R300), that nothing executes after a run (70 R310), and that every run ends (70 R309): each step
of a run takes a bit of the input, but for the bit-free steps, and no two of these follow each other. -/

namespace Sys2Proof.Machine

open Sys2Proof

/-- Settles O19: hardware reset gives the reset values of all that the rule names. -/
theorem resetValues : Obligations.ResetValues := by
  rintro s r (rfl | rfl)
  · exact ⟨rfl, rfl, rfl, rfl, rfl, rfl⟩
  · exact ⟨rfl, rfl, rfl, rfl, rfl, rfl⟩

/-- Settles O52: the reset state is the one hardware reset gives with no input placed. -/
theorem resetHasTheInvariant : Obligations.ResetHasTheInvariant :=
  inv_hardwareReset (s := State.reset) wf_reset.1

theorem step_of_atRest {s : State} (h : atRest s.control.phase = true) : step s = .next s := by
  unfold step phaseStep
  cases hs : s.control.phase <;> simp_all [atRest]

/-- Settles O17: the two phases are phases at rest. -/
theorem nothingExecutesAfterTheEnd : Obligations.NothingExecutesAfterTheEnd := by
  rintro s (hs | hs)
  · exact step_of_atRest (by rw [hs]; rfl)
  · exact step_of_atRest (by rw [hs]; rfl)

theorem run_of_atRest (k : Nat) {s : State} (h : atRest s.control.phase = true) :
    Sys2Proof.core.run k s = .next s := by
  induction k with
  | zero => rfl
  | succ k ih => exact (run_succ_of_step (step_of_atRest h)).trans ih

/-! ### Every run ends -/

/-- A bound on the steps a run still takes before its last one: two for each bit of input left, and one more before
a bit-free step (70 R309). -/
def stepsLeft (s : State) : Nat :=
  2 * (8 * s.launch.inLen.toNat - s.bitpos) + (bitFree s.control.phase).toNat

theorem stepsLeft_lt (s : State) : stepsLeft s < 16 * s.launch.inLen.toNat + 2 := by
  have := Bool.toNat_le (bitFree s.control.phase)
  unfold stepsLeft
  omega

/-- No bit-free step follows another (46 R246). -/
theorem bitFree_eq_false_of_successors {p : Phase} (hp : bitFree p = true) : ∀ q ∈ successors p, bitFree q = false := by
  cases p <;> simp_all [bitFree, successors]

/-- Nothing leads back to `PH_IDLE` (46 R246). -/
theorem ne_idle_of_successors {p : Phase} (hp : p ≠ .idle) : ∀ q ∈ successors p, q ≠ .idle := by
  cases p <;> simp_all [successors]

/-- A step that goes on brings the end nearer: an element takes a bit, and after a bit-free step an element is due. -/
theorem stepsLeft_step {s t : State} (hinv : Inv s) (hb : s.control.status = .busy) (h : step s = .next t)
    (ht : t.control.status = .busy) : stepsLeft t < stepsLeft s := by
  obtain ⟨hphase, hl, -⟩ := phasesFollowTheTable s t h
  obtain ⟨hfree, helement⟩ := bitPositionAdvances s t hinv hb h (by simp [ht])
  unfold stepsLeft
  rw [hl]
  cases hs : bitFree s.control.phase with
  | true =>
    have hpos : t.bitpos = s.bitpos := by rw [bitpos_eq_readerPos, bitpos_eq_readerPos, hfree hs]
    simp [hpos, bitFree_eq_false_of_successors hs _ hphase]
  | false =>
    obtain ⟨hlt, hle⟩ := helement hs
    have := Bool.toNat_le (bitFree t.control.phase)
    simp only [Bool.toNat_false]
    omega

/-- A busy engine does not become idle by a step. -/
theorem ended_of_step {s t : State} (hinv : Inv s) (hb : s.control.status = .busy) (h : step s = .next t)
    (ht : t.control.status ≠ .busy) : t.control.status = .done ∨ t.control.status = .fault := by
  obtain ⟨-, -, ⟨hidle', -⟩, -⟩ := everyStepKeepsTheInvariant s t hinv h
  obtain ⟨-, -, ⟨hidle, -⟩, -⟩ := hinv
  obtain ⟨hphase, -⟩ := phasesFollowTheTable s t h
  have hne : t.control.status ≠ .idle :=
    fun hi => ne_idle_of_successors (by simp [← hidle, hb]) _ hphase (hidle'.mp hi)
  cases hst : t.control.status <;> simp_all

theorem atRest_of_ended {s : State} (hinv : Inv s) (h : s.control.status = .done ∨ s.control.status = .fault) :
    atRest s.control.phase = true := by
  obtain ⟨-, -, ⟨-, hdone, hfault, -⟩, -⟩ := hinv
  rcases h with h | h
  · rw [hdone.mp h]; rfl
  · rw [hfault.mp h]; rfl

/-- By induction on the steps granted: the first step ends the run or leaves a smaller bound. -/
theorem run_ends {n : Nat} {s : State} (hinv : Inv s) (hplaced : InputPlaced s.launch)
    (hb : s.control.status = .busy) (hn : stepsLeft s < n) :
    ∃ t : State, Sys2Proof.core.run n s = .next t ∧ (t.control.status = .done ∨ t.control.status = .fault) := by
  induction n generalizing s with
  | zero => omega
  | succ n ih =>
    obtain ⟨t, hstep⟩ := stepAlwaysAnswers s hinv hplaced
    have hinv' := everyStepKeepsTheInvariant s t hinv hstep
    rw [run_succ_of_step hstep]
    by_cases ht : t.control.status = .busy
    · obtain ⟨-, hl, -⟩ := phasesFollowTheTable s t hstep
      have hlt := stepsLeft_step hinv hb hstep ht
      exact ih hinv' (by rwa [hl]) ht (by omega)
    · have hend := ended_of_step hinv hb hstep ht
      exact ⟨t, run_of_atRest n (atRest_of_ended hinv' hend), hend⟩

/-- Settles O55: the bound holds at every place of the input. -/
theorem everyRunEnds : Obligations.EveryRunEnds :=
  fun s hinv hplaced hb => run_ends hinv hplaced hb (stepsLeft_lt s)

end Sys2Proof.Machine

/-! ## A run depends on its launch parameters only

Two runs from states that agree on the launch parameters go through states that differ only in what the current phase
does not read: the input beyond `IN_LEN`, registers and tables outside their lifetime (10_state R20 to R23), and the free
values drawn (70 R301). -/

namespace Sys2Proof.Machine

open Sys2Proof

/-! ### States that no run tells apart -/

/-- The launch parameters agree where a run reads them: the input below `IN_LEN` (70 R301). -/
structure SameLaunch (l l' : Launch) : Prop where
  inLen : l'.inLen = l.inLen
  expectedLen : l'.expectedLen = l.expectedLen
  cfg : l'.cfg = l.cfg
  bytes : ∀ a < l.inLen.toNat, memRead l'.inMem a = memRead l.inMem a

/-- The registers that every phase may read. -/
structure SameRegisters (s s' : State) : Prop where
  launch : SameLaunch s.launch s'.launch
  control : s'.control = s.control
  reader : s'.reader = s.reader
  out : s'.out = s.out
  adler : s'.adler = s.adler
  matchLen : s'.matchLen = s.matchLen
  bfinal : s'.block.bfinal = s.block.bfinal

/-- The dynamic header agrees: the counts, and the code-length fields (44 R140 to R143). -/
structure SameHeader (d d' : Dynamic) : Prop where
  hlit : d'.hlit = d.hlit
  hdist : d'.hdist = d.hdist
  hclen : d'.hclen = d.hclen
  clIdx : d'.clIdx = d.clIdx
  clLengths : d'.clLengths = d.clLengths

/-- The code lengths agree up to `LEN_IDX`: the entries beyond it are those of an earlier block, or free (44 R144). -/
structure SameLengths (d d' : Dynamic) : Prop where
  hlit : d'.hlit = d.hlit
  hdist : d'.hdist = d.hdist
  lenIdx : d'.lenIdx = d.lenIdx
  entries : ∀ j < d.lenIdx.toNat, d'.lengths.getD j 0#4 = d.lengths.getD j 0#4

/-- What a phase reads beside the registers of `SameRegisters` agrees (10_state R20 to R23: the lifetimes). -/
def SameUsed (p : Phase) (s s' : State) : Prop :=
  match p with
  | .idle => True
  | .zhdr => True
  | .blockHdr => True
  | .storedHdr => True
  | .storedCopy => s'.block.copyRem = s.block.copyRem
  | .fixedSetup => s'.block.btype = s.block.btype
  | .dynHdr => s'.block.btype = s.block.btype
  | .dynClen => s'.block.btype = s.block.btype ∧ SameHeader s.dyn s'.dyn
  | .dynLengths =>
    s'.block.btype = s.block.btype ∧ s'.tables.tCl = s.tables.tCl ∧ SameLengths s.dyn s'.dyn
  | .dynBuild =>
    s'.block.btype = s.block.btype ∧ SameLengths s.dyn s'.dyn ∧ s.dyn.lenIdx.toNat = nLl s.dyn + nD s.dyn
  | .symbol =>
    s'.block.btype = s.block.btype ∧ s'.tables.tLl = s.tables.tLl ∧ s'.tables.tD = s.tables.tD
  | .endCheck => True
  | .trailer => True
  | .done => True
  | .fault => True

/-- Two states agree on all that their phase reads. -/
structure Alike (s s' : State) : Prop extends SameRegisters s s' where
  used : SameUsed s.control.phase s s'

/-- No run tells the two states apart: they are alike, or they entered the same fault, after which everything but
the control registers is free (10_state R28). -/
inductive Indistinct : State → State → Prop
  | running {s s' : State} (h : Alike s s') : Indistinct s s'
  | faulted {s s' : State} (e : ErrCode) (hl : SameLaunch s.launch s'.launch) :
    Indistinct (takeFault e s) (takeFault e s')

/-- Both operations answer, and alike, or both stop for the same reason. -/
def SameAnswer (r r' : Res State) : Prop :=
  (∃ t t', r = .ok t ∧ r' = .ok t' ∧ Alike t t') ∨ ∃ stop, r = .error stop ∧ r' = .error stop

/-- Where the first outcome is a next state, so is the second, and no run tells them apart. -/
def MatchedBy (o o' : Outcome) : Prop :=
  ∀ t, o = .next t → ∃ t', o' = .next t' ∧ Indistinct t t'

theorem Indistinct.control {s s' : State} (h : Indistinct s s') : s'.control = s.control := by
  cases h with
  | running h => exact h.control
  | faulted e hl => rfl

theorem Indistinct.matchLen {s s' : State} (h : Indistinct s s') : s'.matchLen = s.matchLen := by
  cases h with
  | running h => exact h.matchLen
  | faulted e hl => rfl

/-- Off the faults the two states are alike. -/
theorem Indistinct.alike {s s' : State} (h : Indistinct s s') (hs : s.control.status ≠ .fault) : Alike s s' := by
  cases h with
  | running h => exact h
  | faulted e hl => exact absurd rfl hs

theorem sameAnswer_ok {t t' : State} (h : Alike t t') : SameAnswer (.ok t) (.ok t') :=
  .inl ⟨t, t', rfl, rfl, h⟩

theorem sameAnswer_error (stop : Stop) : SameAnswer (.error stop) (.error stop) :=
  .inr ⟨stop, rfl, rfl⟩

theorem matchedBy_next {t t' : State} (h : Alike t t') : MatchedBy (.next t) (.next t') := by
  rintro _ ⟨⟩
  exact ⟨t', rfl, .running h⟩

theorem matchedBy_fault (f : Fault) (o : Outcome) : MatchedBy (.fault f) o := by
  rintro _ ⟨⟩

/-- A raised fault is taken on both sides (60 R288). -/
theorem matchedBy_settle {s s' : State} {r r' : Res State} (hl : SameLaunch s.launch s'.launch)
    (h : SameAnswer r r') : MatchedBy (settle s r) (settle s' r') := by
  intro t ht
  rcases h with ⟨u, u', rfl, rfl, h⟩ | ⟨stop, rfl, rfl⟩
  · cases ht
    exact ⟨u', rfl, .running h⟩
  · rcases settle_next ht with h | ⟨e, h, rfl⟩
    · cases h
    · cases h
      exact ⟨_, rfl, .faulted e hl⟩

/-! ### The input -/

section

variable {l l' : Launch} (h : SameLaunch l l')
include h

theorem SameLaunch.strictNlen_eq : strictNlen l' = strictNlen l := by
  rw [strictNlen, strictNlen, h.cfg]

theorem SameLaunch.strictCodes_eq : strictCodes l' = strictCodes l := by
  rw [strictCodes, strictCodes, h.cfg]

/-- The refill asks for bytes below `IN_LEN` only (40 R91). -/
theorem SameLaunch.pullBytes_eq (n k : Nat) (r : BitReader) : pullBytes l' n k r = pullBytes l n k r := by
  induction k generalizing r with
  | zero => rfl
  | succ k ih =>
    simp only [pullBytes, h.inLen, ih]
    by_cases hin : l.inLen.toNat ≤ r.bytePos.toNat
    · simp only [if_pos hin]
    · rw [h.bytes _ (Nat.lt_of_not_le hin)]

theorem SameLaunch.readBits_eq (n : Nat) (r : BitReader) : readBits l' n r = readBits l n r := by
  rw [readBits, readBits, h.pullBytes_eq]

theorem SameLaunch.runProg_eq {α : Type} (p : BitProg α) (r : BitReader) : runProg l' p r = runProg l p r := by
  induction p generalizing r with
  | done a => rfl
  | reject e => rfl
  | read n k ih => simp only [runProg, h.readBits_eq, ih]
  | align k ih => exact ih (alignReader r)

end

/-! ### Updates on both sides -/

section

variable {s s' : State} (h : SameRegisters s s')
include h

theorem SameRegisters.setPhase (p : Phase) : SameRegisters (s.setPhase p) (s'.setPhase p) :=
  { h with control := congrArg (fun c : Control => { c with phase := p }) h.control }

theorem SameRegisters.setControl (c : Control) : SameRegisters (s.setControl c) (s'.setControl c) :=
  { h with control := rfl }

theorem SameRegisters.setBlock {b b' : Block} (hb : b'.bfinal = b.bfinal) :
    SameRegisters (s.setBlock b) (s'.setBlock b') :=
  { h with bfinal := hb }

theorem SameRegisters.setDyn (d d' : Dynamic) : SameRegisters (s.setDyn d) (s'.setDyn d') :=
  { h with }

theorem SameRegisters.setTables (T T' : Tables) : SameRegisters (s.setTables T) (s'.setTables T') :=
  { h with }

end

section

variable {s s' : State} (h : Alike s s')
include h

theorem Alike.setReader (r : BitReader) : Alike (s.setReader r) (s'.setReader r) :=
  { h with reader := rfl, used := h.used }

theorem Alike.setOut (o : Output) (a : Adler) : Alike (s.setOut o a) (s'.setOut o a) :=
  { h with out := rfl, adler := rfl, used := h.used }

theorem Alike.setMatchLen (n : Option (BitVec 9)) : Alike (s.setMatchLen n) (s'.setMatchLen n) :=
  { h with matchLen := rfl, used := h.used }

theorem Alike.used_of_phase {p : Phase} (hs : s.control.phase = p) : SameUsed p s s' :=
  hs ▸ h.used

/-- The registers of the old phase may be forgotten where those of the new one agree. -/
theorem Alike.setPhase {p : Phase} (hu : SameUsed p s s') : Alike (s.setPhase p) (s'.setPhase p) :=
  ⟨h.toSameRegisters.setPhase p, hu⟩

end

/-! ### The fetch -/

/-- The phase's element is taken from the stream by the same program. -/
theorem Alike.elementProg_eq {s s' : State} (h : Alike s s') : elementProg s'.ctx = elementProg s.ctx := by
  cases hs : s.control.phase <;> simp only [elementProg, State.ctx, h.control, hs]
  case dynLengths =>
    obtain ⟨-, hT, -⟩ := h.used_of_phase hs
    rw [hT]
  case symbol =>
    obtain ⟨hb, hT, hD⟩ := h.used_of_phase hs
    simp only [symbolProg, h.matchLen, hb, hT, hD]

/-- The same element is fetched with the same bits, or both fetches stop for the same reason. -/
theorem fetch_alike {s s' : State} (h : Alike s s') :
    (∃ i r, fetch s = .ok (i, s.setReader r) ∧ fetch s' = .ok (i, s'.setReader r)) ∨
      ∃ stop, fetch s = .error stop ∧ fetch s' = .error stop := by
  rw [fetch, fetch, h.elementProg_eq, h.launch.runProg_eq, h.reader]
  cases runProg s.launch (elementProg s.ctx) s.reader with
  | ok x => exact .inl ⟨x.1, x.2, rfl, rfl⟩
  | error stop => exact .inr ⟨stop, rfl, rfl⟩

theorem readOperand_alike {s s' : State} (h : Alike s s') (base e : Nat) :
    (∃ v r, readOperand base e s = .ok (v, s.setReader r) ∧ readOperand base e s' = .ok (v, s'.setReader r)) ∨
      ∃ stop, readOperand base e s = .error stop ∧ readOperand base e s' = .error stop := by
  rw [readOperand, readOperand, h.launch.readBits_eq, h.reader]
  cases readBits s.launch e s.reader with
  | ok x => exact .inl ⟨base + x.1, x.2, rfl, rfl⟩
  | error stop => exact .inr ⟨stop, rfl, rfl⟩

/-! ### The output -/

theorem outAppend_alike {s s' : State} (h : Alike s s') (b : Byte) :
    SameAnswer (outAppend b s) (outAppend b s') := by
  rw [outAppend, outAppend, h.launch.expectedLen, h.out, h.adler]
  split
  · exact sameAnswer_error _
  · exact sameAnswer_ok (h.setOut _ _)

theorem copyMatch_alike {s s' : State} (h : Alike s s') (distance k : Nat) :
    SameAnswer (copyMatch distance k s) (copyMatch distance k s') := by
  induction k generalizing s s' with
  | zero => exact sameAnswer_ok h
  | succ k ih =>
    simp only [copyMatch, h.out]
    cases memRead s.out.outMem (s.out.outPos.toNat - distance) with
    | none => exact sameAnswer_error _
    | some b =>
      rcases outAppend_alike h b with ⟨t, t', ht, ht', h'⟩ | ⟨stop, ht, ht'⟩
      · simp only [ht, ht']
        exact ih h'
      · simp only [ht, ht']
        exact sameAnswer_error stop

/-! ### Blocks -/

theorem phaseAfterBlock_congr {b b' : Block} (h : b'.bfinal = b.bfinal) : phaseAfterBlock b' = phaseAfterBlock b := by
  rw [phaseAfterBlock, phaseAfterBlock, h]

/-- Neither phase after a block reads a register of the block but `BFINAL` (43 R123). -/
theorem sameUsed_phaseAfterBlock (b : Block) (s s' : State) : SameUsed (phaseAfterBlock b) s s' := by
  unfold phaseAfterBlock
  split <;> trivial

theorem endOfBlock_alike {s s' : State} (h : Alike s s') : Alike (endOfBlock s) (endOfBlock s') := by
  rw [endOfBlock, endOfBlock, phaseAfterBlock_congr h.bfinal]
  exact h.setPhase (sameUsed_phaseAfterBlock _ _ _)

theorem latchBlock_alike {s s' : State} (h : Alike s s') (bfinal : BitVec 1) (btype : BitVec 2) {p : Phase}
    (hp : SameUsed p (latchBlock bfinal btype p s) (latchBlock bfinal btype p s')) :
    Alike (latchBlock bfinal btype p s) (latchBlock bfinal btype p s') := by
  refine ⟨.setPhase (.setBlock h.toSameRegisters ?_) p, hp⟩
  rfl

theorem execStoredHdr_matched {s s' : State} (h : Alike s s') (len nlen : BitVec 16) :
    MatchedBy (execStoredHdr len nlen s) (execStoredHdr len nlen s') := by
  have hlatch := h.toSameRegisters.setBlock (b := { s.block with len := len, nlen := nlen, copyRem := len })
    (b' := { s'.block with len := len, nlen := nlen, copyRem := len }) h.bfinal
  refine matchedBy_settle h.launch ?_
  rw [h.launch.strictNlen_eq]
  split
  · exact sameAnswer_error _
  · simp only
    split
    · rw [endOfBlock, endOfBlock, phaseAfterBlock_congr hlatch.bfinal]
      exact sameAnswer_ok ⟨hlatch.setPhase _, sameUsed_phaseAfterBlock _ _ _⟩
    · exact sameAnswer_ok ⟨hlatch.setPhase _, rfl⟩

theorem countStored_alike {s s' : State} (h : Alike s s') (hs : s.control.phase = .storedCopy) :
    Alike (countStored s) (countStored s') := by
  have hrem : s'.block.copyRem = s.block.copyRem := h.used_of_phase hs
  rw [countStored_eq, countStored_eq, hrem, phaseAfterBlock_congr h.bfinal, h.control]
  refine ⟨.setPhase (.setBlock h.toSameRegisters ?_) _, ?_⟩
  · exact h.bfinal
  · simp only [State.setPhase_control]
    split
    · exact sameUsed_phaseAfterBlock _ _ _
    · rw [hs]
      rfl

theorem execStoredByte_matched {s s' : State} (h : Alike s s') (hs : s.control.phase = .storedCopy) (b : BitVec 8) :
    MatchedBy (execStoredByte b s) (execStoredByte b s') := by
  refine matchedBy_settle h.launch ?_
  rcases outAppend_alike h b with ⟨t, t', ht, ht', h'⟩ | ⟨stop, ht, ht'⟩
  · simp only [ht, ht']
    exact sameAnswer_ok (countStored_alike h' (by rw [outAppend_frame ht]; exact hs))
  · simp only [ht, ht']
    exact sameAnswer_error stop

/-- The tables are built from the same lengths; the symbol loop reads nothing else but `BTYPE` (44 R151). -/
theorem buildBlockTables_matched {s s' : State} (h : Alike s s') (hb : s'.block.btype = s.block.btype)
    (litlen dist : List Nat) : MatchedBy (buildBlockTables litlen dist s) (buildBlockTables litlen dist s') := by
  refine matchedBy_settle h.launch ?_
  rw [h.launch.strictCodes_eq]
  cases build 9 (strictCodes s.launch) litlen with
  | error stop => exact sameAnswer_error stop
  | ok tLl =>
    cases build 5 (strictCodes s.launch) dist with
    | error stop => exact sameAnswer_error stop
    | ok tD => exact sameAnswer_ok ⟨(h.toSameRegisters.setTables _ _).setPhase _, hb, rfl, rfl⟩

/-! ### The dynamic header -/

theorem SameHeader.nCode_eq {d d' : Dynamic} (h : SameHeader d d') : nCode d' = nCode d := by
  rw [nCode, nCode, h.hclen]

theorem SameHeader.clenPlaced {d d' : Dynamic} (h : SameHeader d d') (v : BitVec 3) (sym : Nat) :
    SameHeader (clenPlaced v sym d) (clenPlaced v sym d') where
  hlit := h.hlit
  hdist := h.hdist
  hclen := h.hclen
  clIdx := congrArg (· + 1#5) h.clIdx
  clLengths := congrArg (·.setIfInBounds sym v) h.clLengths

theorem execDynHdr_matched {s s' : State} (h : Alike s s') (hs : s.control.phase = .dynHdr) (hlit hdist : BitVec 5)
    (hclen : BitVec 4) : MatchedBy (execDynHdr hlit hdist hclen s) (execDynHdr hlit hdist hclen s') := by
  have hb : s'.block.btype = s.block.btype := h.used_of_phase hs
  exact matchedBy_next ⟨(h.toSameRegisters.setDyn _ _).setPhase _, hb, rfl, rfl, rfl, rfl, rfl⟩

/-- The last field builds `T_CL` from the same lengths, and no code length is read before it is written. -/
theorem execClen_matched {s s' : State} (h : Alike s s') (hs : s.control.phase = .dynClen) (v : BitVec 3) :
    MatchedBy (execClen v s) (execClen v s') := by
  obtain ⟨hb, hd⟩ := h.used_of_phase hs
  cases hsym : clOrder[s.dyn.clIdx.toNat]? with
  | none =>
    have hfault : execClen v s = .fault .arrayIndexOutside := by simp only [execClen, hsym]
    rw [hfault]
    exact matchedBy_fault _ _
  | some sym =>
    have hsym' : clOrder[s'.dyn.clIdx.toNat]? = some sym := by rwa [hd.clIdx]
    have hplaced := hd.clenPlaced v sym
    by_cases hlast : (s.dyn.clIdx + 1#5).toNat = nCode s.dyn
    · have hlast' : (s'.dyn.clIdx + 1#5).toNat = nCode s'.dyn := by rwa [hd.clIdx, hd.nCode_eq]
      cases hT : build 5 (strictCodes s.launch) ((clenPlaced v sym s.dyn).clLengths.toList.map BitVec.toNat) with
      | ok T =>
        rw [execClen_of_last hsym hlast hT,
          execClen_of_last hsym' hlast' (by rwa [h.launch.strictCodes_eq, hplaced.clLengths])]
        exact matchedBy_next ⟨((h.toSameRegisters.setDyn _ _).setTables _ _).setPhase _, hb, rfl,
          hd.hlit, hd.hdist, rfl, fun j hj => absurd hj (Nat.not_lt_zero j)⟩
      | error stop =>
        rw [execClen_of_last_error hsym hlast hT,
          execClen_of_last_error hsym' hlast' (by rwa [h.launch.strictCodes_eq, hplaced.clLengths])]
        exact matchedBy_settle h.launch (sameAnswer_error stop)
    · have hmore : (s'.dyn.clIdx + 1#5).toNat ≠ nCode s'.dyn := by rwa [hd.clIdx, hd.nCode_eq]
      rw [execClen_of_not_last hsym hlast, execClen_of_not_last hsym' hmore]
      refine matchedBy_next ⟨h.toSameRegisters.setDyn _ _, ?_⟩
      rw [State.setDyn_control, hs]
      exact ⟨hb, hplaced⟩

/-! ### The code lengths -/

section

variable {d d' : Dynamic} (h : SameLengths d d')
include h

theorem SameLengths.nLl_eq : nLl d' = nLl d := by
  rw [nLl, nLl, h.hlit]

theorem SameLengths.nD_eq : nD d' = nD d := by
  rw [nD, nD, h.hdist]

/-- The length before `LEN_IDX` has been written (44 R146). -/
theorem SameLengths.previousLength_eq (hpos : d.lenIdx ≠ 0#9) : previousLength d' = previousLength d := by
  have hne : d.lenIdx.toNat ≠ 0 := fun h0 => hpos (BitVec.eq_of_toNat_eq h0)
  rw [previousLength, previousLength, h.lenIdx]
  exact h.entries _ (by omega)

/-- A run of lengths extends the part that agrees. -/
theorem SameLengths.fill (v : BitVec 4) {rep : Nat} (hfit : d.lenIdx.toNat + rep ≤ 320) :
    SameLengths
      { d with
        lengths := fillLengths d.lenIdx.toNat v rep d.lengths, lenIdx := d.lenIdx + BitVec.ofNat 9 rep }
      { d' with
        lengths := fillLengths d'.lenIdx.toNat v rep d'.lengths, lenIdx := d'.lenIdx + BitVec.ofNat 9 rep } where
  hlit := h.hlit
  hdist := h.hdist
  lenIdx := congrArg (· + BitVec.ofNat 9 rep) h.lenIdx
  entries := fun j hj => by
    have hend : (d.lenIdx + BitVec.ofNat 9 rep).toNat = d.lenIdx.toNat + rep := by
      rw [BitVec.toNat_add, BitVec.toNat_ofNat]
      omega
    simp only [hend] at hj
    rw [h.lenIdx, fillLengths_getD _ _ _ _ _ (by omega), fillLengths_getD _ _ _ _ _ (by omega)]
    split
    · rfl
    · exact h.entries j (by omega)

/-- With all lengths written the two arrays of the block agree (44 R150). -/
theorem SameLengths.litlenLengths_eq (hfull : d.lenIdx.toNat = nLl d + nD d) : litlenLengths d' = litlenLengths d := by
  rw [litlenLengths_eq_map_range, litlenLengths_eq_map_range, h.nLl_eq]
  refine List.map_congr_left fun j hj => ?_
  rw [h.entries j (by have := List.mem_range.mp hj; omega)]

theorem SameLengths.distLengths_eq (hfull : d.lenIdx.toNat = nLl d + nD d) : distLengths d' = distLengths d := by
  rw [distLengths_eq_map_range, distLengths_eq_map_range, h.nLl_eq, h.nD_eq]
  refine List.map_congr_left fun j hj => ?_
  rw [h.entries _ (by have := List.mem_range.mp hj; omega)]

end

theorem appendLengths_alike {s s' : State} (h : Alike s s') (hs : s.control.phase = .dynLengths) (v : BitVec 4)
    {rep : Nat} (hfit : s.dyn.lenIdx.toNat + rep ≤ 320) :
    Alike (appendLengths v rep s) (appendLengths v rep s') := by
  obtain ⟨hb, hT, hd⟩ := h.used_of_phase hs
  have hfill := hd.fill v hfit
  have hend : (s'.dyn.lenIdx + BitVec.ofNat 9 rep).toNat = (s.dyn.lenIdx + BitVec.ofNat 9 rep).toNat :=
    congrArg BitVec.toNat hfill.lenIdx
  rw [appendLengths_eq_setPhase, appendLengths_eq_setPhase, hd.nLl_eq, hd.nD_eq, h.control, hs, hend]
  refine ⟨.setPhase (.setDyn h.toSameRegisters _ _) _, ?_⟩
  simp only [State.setPhase_control]
  split
  · rename_i hfull
    exact ⟨hb, hfill, hfull⟩
  · exact ⟨hb, hT, hfill⟩

theorem repeatLengths_alike {s s' : State} (h : Alike s s') (hs : s.control.phase = .dynLengths) (v : BitVec 4)
    (base e : Nat) : SameAnswer (repeatLengths v base e s) (repeatLengths v base e s') := by
  obtain ⟨-, -, hd⟩ := h.used_of_phase hs
  rw [repeatLengths, repeatLengths, hd.nLl_eq, hd.nD_eq, hd.lenIdx]
  rcases readOperand_alike h base e with ⟨rep, r, hr, hr'⟩ | ⟨stop, hr, hr'⟩
  · simp only [hr, hr']
    split
    · exact sameAnswer_error _
    · have := nLl_add_nD_le s.dyn
      exact sameAnswer_ok (appendLengths_alike (h.setReader r) hs v (by simp only [State.setReader_dyn]; omega))
  · simp only [hr, hr']
    exact sameAnswer_error stop

theorem execClLen_matched {s s' : State} (h : Alike s s') (hs : s.control.phase = .dynLengths) (v : BitVec 4) :
    MatchedBy (execClLen v s) (execClLen v s') := by
  obtain ⟨-, -, hd⟩ := h.used_of_phase hs
  rw [execClLen, execClLen, hd.lenIdx]
  split
  · exact matchedBy_next (appendLengths_alike h hs v (by omega))
  · exact matchedBy_fault _ _

theorem execCl16_matched {s s' : State} (h : Alike s s') (hs : s.control.phase = .dynLengths) :
    MatchedBy (execCl16 s) (execCl16 s') := by
  obtain ⟨-, -, hd⟩ := h.used_of_phase hs
  refine matchedBy_settle h.launch ?_
  rw [hd.lenIdx]
  split
  · exact sameAnswer_error _
  · rename_i hpos
    rw [hd.previousLength_eq hpos]
    exact repeatLengths_alike h hs _ 3 2

/-! ### Symbols -/

theorem lengthSymbol_matched {s s' : State} (h : Alike s s') (base e : Nat) :
    MatchedBy (lengthSymbol base e s) (lengthSymbol base e s') := by
  refine matchedBy_settle h.launch ?_
  rcases readOperand_alike h base e with ⟨len, r, hr, hr'⟩ | ⟨stop, hr, hr'⟩
  · simp only [hr, hr']
    exact sameAnswer_ok ((h.setReader r).setMatchLen _)
  · simp only [hr, hr']
    exact sameAnswer_error stop

theorem distanceSymbol_matched {s s' : State} (h : Alike s s') (base e : Nat) :
    MatchedBy (distanceSymbol base e s) (distanceSymbol base e s') := by
  rw [distanceSymbol, distanceSymbol, h.matchLen]
  cases s.matchLen with
  | none => rintro _ ⟨⟩
  | some len =>
    refine matchedBy_settle h.launch ?_
    rcases readOperand_alike h base e with ⟨distance, r, hr, hr'⟩ | ⟨stop, hr, hr'⟩
    · have hout : (s'.setReader r).out = (s.setReader r).out := h.out
      simp only [hr, hr']
      rw [hout]
      split
      · exact sameAnswer_error _
      · exact copyMatch_alike ((h.setReader r).setMatchLen none) distance len.toNat
    · simp only [hr, hr']
      exact sameAnswer_error stop

theorem runLitlen_matched {s s' : State} (h : Alike s s') (n : Nat) : MatchedBy (runLitlen n s) (runLitlen n s') := by
  by_cases hlit : n < 256
  · rw [runLitlen_literal hlit, runLitlen_literal hlit]
    exact matchedBy_settle h.launch (outAppend_alike h _)
  · by_cases heob : n = 256
    · rw [heob, runLitlen_endOfBlock, runLitlen_endOfBlock]
      exact matchedBy_next (endOfBlock_alike h)
    · by_cases hlen : n < 286
      · obtain ⟨k, rfl⟩ := Nat.exists_eq_add_of_le (show 257 ≤ n by omega)
        rw [runLitlen_length (by omega), runLitlen_length (by omega)]
        exact lengthSymbol_matched h _ _
      · by_cases hres : n < 288
        · rw [runLitlen_reserved (by omega), runLitlen_reserved (by omega)]
          exact matchedBy_settle h.launch (sameAnswer_error _)
        · rw [runLitlen_outside (by omega)]
          exact matchedBy_fault _ _

theorem runDist_matched {s s' : State} (h : Alike s s') (n : Nat) : MatchedBy (runDist n s) (runDist n s') := by
  by_cases hdist : n < 30
  · rw [runDist_distance hdist, runDist_distance hdist]
    exact distanceSymbol_matched h _ _
  · by_cases hres : n < 32
    · rw [runDist_reserved (by omega), runDist_reserved (by omega)]
      exact matchedBy_settle h.launch (sameAnswer_error _)
    · rw [runDist_outside (by omega)]
      exact matchedBy_fault _ _

/-! ### The driver -/

/-- The header's checks are about the header's bits only (46 R241). -/
theorem execZhdr_matched {s s' : State} (h : Alike s s') (cm cinfo : BitVec 4) (fcheck : BitVec 5) (fdict : BitVec 1)
    (flevel : BitVec 2) :
    MatchedBy (execZhdr cm cinfo fcheck fdict flevel s) (execZhdr cm cinfo fcheck fdict flevel s') := by
  refine matchedBy_settle h.launch ?_
  split_ifs
  · exact sameAnswer_error _
  · exact sameAnswer_error _
  · exact sameAnswer_error _
  · exact sameAnswer_ok (h.setPhase trivial)

theorem endCheck_matched {s s' : State} (h : Alike s s') : MatchedBy (endCheck s) (endCheck s') := by
  refine matchedBy_settle h.launch ?_
  rw [h.out, h.launch.expectedLen]
  split
  · exact sameAnswer_error _
  · exact sameAnswer_ok (h.setPhase trivial)

theorem execAdler32_matched {s s' : State} (h : Alike s s') (bHi bLo aHi aLo : BitVec 8) :
    MatchedBy (execAdler32 bHi bLo aHi aLo s) (execAdler32 bHi bLo aHi aLo s') := by
  refine matchedBy_settle h.launch ?_
  rw [h.adler, h.control]
  split
  · exact sameAnswer_error _
  · exact sameAnswer_ok ⟨h.toSameRegisters.setControl _, trivial⟩

/-! ### Elements and steps -/

/-- An element of the phase does the same from two states that are alike. -/
theorem exec_matched {s s' : State} (h : Alike s s') {i : Instr} (ha : admits s.ctx i = true) :
    MatchedBy (exec i s) (exec i s') := by
  have of_word {p : Phase} (hi : wordPhase i = some p) : s.control.phase = p := phase_of_wordPhase ha hi
  have of_cl (hi : isClSymbol i = true) : s.control.phase = .dynLengths := phase_of_isClSymbol ha hi
  cases hl : litlenNumber i with
  | some n =>
    rw [exec_eq_runLitlen hl, exec_eq_runLitlen hl]
    exact runLitlen_matched h n
  | none =>
    cases hd : distNumber i with
    | some n =>
      rw [exec_eq_runDist hd, exec_eq_runDist hd]
      exact runDist_matched h n
    | none =>
      cases i with
      | zhdr => exact execZhdr_matched h _ _ _ _ _
      | blockStored bfinal => exact matchedBy_next (latchBlock_alike h bfinal 0#2 trivial)
      | blockFixed bfinal => exact matchedBy_next (latchBlock_alike h bfinal 1#2 rfl)
      | blockDynamic bfinal => exact matchedBy_next (latchBlock_alike h bfinal 2#2 rfl)
      | blockReserved => exact matchedBy_settle h.launch (sameAnswer_error (.raise .btypeReserved))
      | storedHdr len nlen => exact execStoredHdr_matched h len nlen
      | storedByte b => exact execStoredByte_matched h (of_word rfl) b
      | dynHdr hlit hdist hclen => exact execDynHdr_matched h (of_word rfl) hlit hdist hclen
      | clen v => exact execClen_matched h (of_word rfl) v
      | adler32 => exact execAdler32_matched h _ _ _ _
      | clLen v => exact execClLen_matched h (of_cl rfl) v
      | cl16 => exact execCl16_matched h (of_cl rfl)
      | cl17 => exact matchedBy_settle h.launch (repeatLengths_alike h (of_cl rfl) 0#4 3 3)
      | cl18 => exact matchedBy_settle h.launch (repeatLengths_alike h (of_cl rfl) 0#4 11 7)
      | _ => simp [litlenNumber, distNumber, shape] at hl hd

theorem fetchExec_matched {s s' : State} (h : Alike s s') : MatchedBy (fetchExec s) (fetchExec s') := by
  rcases fetch_alike h with ⟨i, r, hf, hf'⟩ | ⟨stop, hf, hf'⟩
  · rw [fetchExec_of_fetch_ok hf, fetchExec_of_fetch_ok hf']
    have ha : admits s.ctx i = true := fetch_admits hf
    exact exec_matched (h.setReader r) ha
  · simp only [fetchExec, hf, hf']
    exact matchedBy_settle h.launch (sameAnswer_error stop)

/-- One stream element: the second half of a match is due on both sides or on neither. -/
theorem elementStep_matched {s s' : State} (h : Alike s s') : MatchedBy (elementStep s) (elementStep s') := by
  intro t ht
  rcases elementStep_next ht with ⟨hone, hnone⟩ | ⟨u, hfirst, hm, hpend, hsecond⟩
  · obtain ⟨t', hone', hind⟩ := fetchExec_matched h t hone
    refine ⟨t', ?_, hind⟩
    rw [elementStep, hone']
    refine completeMatch_next ?_
    rw [h.matchLen, hind.matchLen]
    cases hs : s.matchLen with
    | none => exact .inr (hnone hs)
    | some len => exact .inl rfl
  · obtain ⟨u', hfirst', hind⟩ := fetchExec_matched h u hfirst
    cases hind with
    | faulted e hl => cases hpend
    | running hu =>
      obtain ⟨t', hsecond', hind'⟩ := fetchExec_matched hu t hsecond
      refine ⟨t', ?_, hind'⟩
      rw [elementStep, hfirst', completeMatch_pending (h.matchLen.trans hm) (by rwa [hu.matchLen])]
      exact hsecond'

/-- Each phase's step, from two states that are alike. -/
theorem step_matched_of_alike {s s' : State} (h : Alike s s') : MatchedBy (step s) (step s') := by
  have hphase : s'.control.phase = s.control.phase := congrArg Control.phase h.control
  cases hs : s.control.phase <;> simp only [step, phaseStep, hphase, hs]
  case idle | done | fault => exact matchedBy_next h
  case fixedSetup => exact buildBlockTables_matched h (h.used_of_phase hs) _ _
  case dynBuild =>
    obtain ⟨hb, hd, hfull⟩ := h.used_of_phase hs
    rw [dynBuild, dynBuild, hd.litlenLengths_eq hfull, hd.distLengths_eq hfull]
    exact buildBlockTables_matched h hb _ _
  case endCheck => exact endCheck_matched h
  all_goals exact elementStep_matched h

theorem step_matched {s s' : State} (h : Indistinct s s') : MatchedBy (step s) (step s') := by
  cases h with
  | running h => exact step_matched_of_alike h
  | faulted e hl =>
    rintro _ ⟨⟩
    exact ⟨_, rfl, .faulted e hl⟩

/-! ### Runs -/

/-- A run that answers has answered in its first step. -/
theorem run_succ_next {k : Nat} {s t : State} (h : Sys2Proof.core.run (k + 1) s = .next t) :
    ∃ u, step s = .next u ∧ Sys2Proof.core.run k u = .next t := by
  cases hs : step s with
  | next u => exact ⟨u, rfl, (run_succ_of_step hs).symm.trans h⟩
  | fault f =>
    have hcore : Sys2Proof.core.step s = .fault f := hs
    simp only [Host.Core.run, hcore] at h
    cases h
  | refused r =>
    have hcore : Sys2Proof.core.step s = .refused r := hs
    simp only [Host.Core.run, hcore] at h
    cases h

theorem run_matched (k : Nat) {s s' : State} (h : Indistinct s s') :
    MatchedBy (Sys2Proof.core.run k s) (Sys2Proof.core.run k s') := by
  induction k generalizing s s' with
  | zero =>
    rintro _ ⟨⟩
    exact ⟨s', rfl, h⟩
  | succ k ih =>
    intro t ht
    obtain ⟨u, hstep, hrun⟩ := run_succ_next ht
    obtain ⟨u', hstep', hu⟩ := step_matched h u hstep
    rw [run_succ_of_step hstep']
    exact ih hu t hrun

/-- `START` sets the registers that every phase reads, and `PH_ZHDR` reads no other (46 R240). -/
theorem start_alike {s s' : State} (h : SameLaunch s.launch s'.launch) : Alike (start s) (start s') :=
  ⟨⟨h, rfl, rfl, rfl, rfl, rfl, rfl⟩, trivial⟩

/-- Settles O60: no run tells the two started states apart, and off the faults the output, the reader and the checksum
agree. -/
theorem resultDependsOnLaunchOnly : Obligations.ResultDependsOnLaunchOnly := by
  intro s1 s2 t1 k hin hexp hcfg hbytes hrun
  have hlaunch : SameLaunch s1.launch s2.launch :=
    ⟨hin.symm, hexp.symm, hcfg.symm, fun a ha => (hbytes a ha).symm⟩
  obtain ⟨t2, hrun', hind⟩ := run_matched k (.running (start_alike hlaunch)) t1 hrun
  refine ⟨t2, hrun', hind.control.symm, fun hdone => ?_⟩
  have halike := hind.alike (by simp [hdone])
  exact ⟨halike.out.symm, halike.reader.symm, halike.adler.symm⟩

end Sys2Proof.Machine
